-- ==== Sys2Proof/Word.lean ====
section
/-! DEFINITION. Byte and word types (`20_memory.md` rule R61, `00_scope.md` rules R11 and R12). -/

namespace Sys2Proof

/-- A byte has 8 bits (rule R61). -/
abbrev Byte := BitVec 8

/-- A 32-bit field: `ARG32`, `RES32`, a counter, a timer's milliseconds (rules R29, R33, R81, R83). -/
abbrev Word32 := BitVec 32

/-- A finite sequence of bytes; the list index is the spec's "offset" (rule R12). -/
abbrev Buffer := List Byte

/-- A radio or talkgroup id: an unsigned integer of `ID_W` bits, `1 <= ID_W <= 32` (rule R9),
held zero-extended in 32 bits. That it stays below `2^ID_W` is part of `Cfg.WellFormed` for the ids
that enter the block and of `Block.Invariant` for those it holds. -/
abbrev Id := BitVec 32

end Sys2Proof
end

