-- ==== Sys2Proof/Machine/Operands.lean ====
section
/-! DEFINITION. Reading and writing buffers (`00_scope.md` rules R11 to R13, `20_memory.md` rules R62
to R65): bits of a buffer, slices, and multi-byte fields made of named bytes. -/

namespace Sys2Proof.Machine

/-- Bit `i` of a buffer read as a bit stream: bit `7 - (i mod 8)` of byte `B[i div 8]` (rule R12). -/
def bitAt (B : Buffer) (i : Nat) : Bool := (B.getD (i / 8) 0#8).getLsbD (7 - i % 8)

/-- `B[off .. off+n-1]` (rule R12). -/
def slice (B : Buffer) (off n : Nat) : Buffer := (B.drop off).take n

/-- Byte `k` of a 32-bit value, counted from its least significant end: `v[8k+7 : 8k]` (rule R141). -/
def byteOf32 (v : Word32) (k : Nat) : Byte := v.extractLsb' (8 * k) 8

/-- The high byte `v[15:8]` of a 16-bit value (rule R131). -/
def hiByte (v : BitVec 16) : Byte := v.extractLsb' 8 8

/-- The low byte `v[7:0]` of a 16-bit value (rule R131). -/
def loByte (v : BitVec 16) : Byte := v.extractLsb' 0 8

/-- A 16-bit field, most significant byte first (rule R64). -/
def be16 (v : BitVec 16) : Buffer := [hiByte v, loByte v]

/-- A 32-bit field, most significant byte first (rule R64). -/
def be32 (v : Word32) : Buffer := [byteOf32 v 3, byteOf32 v 2, byteOf32 v 1, byteOf32 v 0]

/-- The 16-bit field whose bytes are `hi`, `lo` (rule R64). -/
def ofBe16 (hi lo : Byte) : BitVec 16 := hi ++ lo

/-- The 32-bit field whose bytes are `b3`, `b2`, `b1`, `b0`, most significant first (rule R64). -/
def ofBe32 (b3 b2 b1 b0 : Byte) : Word32 := b3 ++ b2 ++ b1 ++ b0

/-- The buffer of `n` bytes `0x00` (rules R26, R40). -/
def zeros (n : Nat) : Buffer := List.replicate n 0#8

end Sys2Proof.Machine
end

