-- ==== Sys2Proof/Syntax.lean ====
section
/-! DEFINITION. The commands of DVMCORE: one constructor per row of `opcode_table.json`
(`30_encoding.md` rule R86), with the operands rule R82 gives it. A field that rule R82 requires to
be zero, and a payload it requires to be absent, is no operand: a packet that breaks such a
requirement is no command (`Sys2Proof.decode` refuses it by name). -/

namespace Sys2Proof

/-- The side a frame came from (rule R17), coded RF = 0, NET = 1 (rule R90). -/
inductive Origin where
  | rf
  | net
deriving DecidableEq, Repr

/-- The twenty commands (rule R86). -/
inductive Instr where
  /-- `CHK5` (R122): `ARG8` is the expected value, all eight bits of it. -/
  | chk5 (expected : Byte) (payload : Buffer)
  /-- `ENC5` (R121). -/
  | enc5 (payload : Buffer)
  /-- `CHK16A` (R131). -/
  | chk16a (payload : Buffer)
  /-- `ADD16A` (R132). -/
  | add16a (payload : Buffer)
  /-- `CHK16B` (R134). -/
  | chk16b (payload : Buffer)
  /-- `ADD16B` (R135). -/
  | add16b (payload : Buffer)
  /-- `CHK32` (R142). -/
  | chk32 (payload : Buffer)
  /-- `ADD32` (R143). -/
  | add32 (payload : Buffer)
  /-- `CRC8` (R150). -/
  | crc8 (payload : Buffer)
  /-- `CRC9` (R151). -/
  | crc9 (payload : Buffer)
  /-- `SYNC` (R163). -/
  | sync (payload : Buffer)
  /-- `VALIDATE` (R198). -/
  | validate (payload : Buffer)
  /-- `PROCFRAME` (R234): `rssi` is `some raw` when `HAS_RSSI = 1`. -/
  | procframe (rssi : Option (BitVec 16)) (frame : Buffer)
  /-- `PROCNET` (R236): `none` when `HAS_FRAME = 0`. -/
  | procnet (frame : Option Buffer)
  /-- `GETFRAME` (R238). -/
  | getframe
  /-- `CLOCK` (R240): `ARG32` is the number of milliseconds. -/
  | clock (ms : Word32)
  /-- `ISBUSY` (R247). -/
  | isbusy
  /-- `RESET` (R248). -/
  | reset
  /-- `RDSTAT` (R250): any selector byte; an undefined one is answered BADCMD by the command. -/
  | rdstat (sel : Byte)
  /-- `RDLC` (R252). -/
  | rdlc (origin : Origin)
deriving DecidableEq, Repr

/-- The payload buffer `in` of a command (rule R81); empty for a command that takes none. -/
def Instr.payload : Instr → Buffer
  | .chk5 _ p => p
  | .enc5 p => p
  | .chk16a p => p
  | .add16a p => p
  | .chk16b p => p
  | .add16b p => p
  | .chk32 p => p
  | .add32 p => p
  | .crc8 p => p
  | .crc9 p => p
  | .sync p => p
  | .validate p => p
  | .procframe _ p => p
  | .procnet (some p) => p
  | .procnet none => []
  | .getframe => []
  | .clock _ => []
  | .isbusy => []
  | .reset => []
  | .rdstat _ => []
  | .rdlc _ => []

end Sys2Proof
end

