-- ==== Sys2Proof/WellFormed.lean ====
section
/-! DEFINITION. When a command can be written as a packet: its payload length must fit the 16-bit
`LEN` field (`20_memory.md` rule R61, `30_encoding.md` rule R81). Every other operand of `Instr` has
exactly the width of its field. -/

namespace Sys2Proof

/-- The largest buffer a command can carry (rule R61). -/
def maxPayload : Nat := 65535

/-- A command is well formed when its payload fits `LEN`. -/
def Instr.wellFormed (i : Instr) : Bool := decide (i.payload.length ≤ maxPayload)

end Sys2Proof
end

