-- ==== Sys2Proof/Decode.lean ====
section
/-! DEFINITION. Command packets (`30_encoding.md` rules R80 to R82, R86, R91 to R93): the decoder, total
on any bytes and refusing by name, and the encoder. -/

namespace Sys2Proof

open Sys2Proof.Machine (ofBe16 ofBe32 be16 be32)

/-- Why bytes are no command. All but the first are answered BADCMD by the block (rule R92). -/
inductive DecodeError where
  /-- The length is not `8 + LEN`: a transport error below the spec (rule R93). -/
  | misdelimited
  /-- A reserved opcode (rule R91). -/
  | reservedOpcode
  /-- A field or bit that rule R82 requires to be zero is not. -/
  | reservedField
  /-- A payload where rule R82 requires none. -/
  | unexpectedPayload
deriving DecidableEq, Repr

/-- A command whose `ARG8` and `ARG32` must both be zero (rule R82). -/
def withoutArgs (arg8 : Byte) (arg32 : Word32) (i : Instr) : Except DecodeError Instr :=
  if arg8 = 0#8 ∧ arg32 = 0#32 then .ok i else .error .reservedField

/-- A command that takes no payload (rule R82). -/
def withoutPayload (payload : Buffer) (r : Except DecodeError Instr) : Except DecodeError Instr :=
  if payload = [] then r else .error .unexpectedPayload

/-- `PROCFRAME` (rule R82): `ARG8` bit 0 is `HAS_RSSI`, bits 7:1 zero; `ARG32` bits 15:0 are the raw
value when `HAS_RSSI = 1`, bits 31:16 zero; all of `ARG32` is zero when `HAS_RSSI = 0`. -/
def decodeProcframe (arg8 : Byte) (arg32 : Word32) (payload : Buffer) : Except DecodeError Instr :=
  if arg8 = 0#8 then
    if arg32 = 0#32 then .ok (.procframe none payload) else .error .reservedField
  else if arg8 = 1#8 then
    if arg32.extractLsb' 16 16 = 0#16 then .ok (.procframe (some (arg32.extractLsb' 0 16)) payload)
    else .error .reservedField
  else .error .reservedField

/-- `PROCNET` (rule R82): `ARG8` bit 0 is `HAS_FRAME`, bits 7:1 zero; no payload when it is 0. -/
def decodeProcnet (arg8 : Byte) (arg32 : Word32) (payload : Buffer) : Except DecodeError Instr :=
  if arg32 = 0#32 then
    if arg8 = 0#8 then withoutPayload payload (.ok (.procnet none))
    else if arg8 = 1#8 then .ok (.procnet (some payload))
    else .error .reservedField
  else .error .reservedField

/-- `RDLC` (rule R82): `ARG8` bit 0 is the origin, bits 7:1 zero. -/
def decodeRdlc (arg8 : Byte) (arg32 : Word32) (payload : Buffer) : Except DecodeError Instr :=
  if arg32 = 0#32 then
    if arg8 = 0#8 then withoutPayload payload (.ok (.rdlc .rf))
    else if arg8 = 1#8 then withoutPayload payload (.ok (.rdlc .net))
    else .error .reservedField
  else .error .reservedField

/-- The command with these fields: the opcode map of rule R86 and the operand table of rule R82. -/
def decodeFields (op arg8 : Byte) (arg32 : Word32) (payload : Buffer) : Except DecodeError Instr :=
  match op with
  | 0x01#8 => if arg32 = 0#32 then .ok (.chk5 arg8 payload) else .error .reservedField
  | 0x02#8 => withoutArgs arg8 arg32 (.enc5 payload)
  | 0x03#8 => withoutArgs arg8 arg32 (.chk16a payload)
  | 0x04#8 => withoutArgs arg8 arg32 (.add16a payload)
  | 0x05#8 => withoutArgs arg8 arg32 (.chk16b payload)
  | 0x06#8 => withoutArgs arg8 arg32 (.add16b payload)
  | 0x07#8 => withoutArgs arg8 arg32 (.chk32 payload)
  | 0x08#8 => withoutArgs arg8 arg32 (.add32 payload)
  | 0x09#8 => withoutArgs arg8 arg32 (.crc8 payload)
  | 0x0A#8 => withoutArgs arg8 arg32 (.crc9 payload)
  | 0x10#8 => withoutArgs arg8 arg32 (.sync payload)
  | 0x11#8 => withoutArgs arg8 arg32 (.validate payload)
  | 0x20#8 => decodeProcframe arg8 arg32 payload
  | 0x21#8 => decodeProcnet arg8 arg32 payload
  | 0x22#8 => withoutPayload payload (withoutArgs arg8 arg32 .getframe)
  | 0x23#8 =>
    withoutPayload payload (if arg8 = 0#8 then .ok (.clock arg32) else .error .reservedField)
  | 0x24#8 => withoutPayload payload (withoutArgs arg8 arg32 .isbusy)
  | 0x25#8 => withoutPayload payload (withoutArgs arg8 arg32 .reset)
  | 0x26#8 =>
    withoutPayload payload (if arg32 = 0#32 then .ok (.rdstat arg8) else .error .reservedField)
  | 0x27#8 => decodeRdlc arg8 arg32 payload
  | _ => .error .reservedOpcode

/-- The command in a packet (rule R81): `[OPCODE][ARG8][LEN hi, lo][ARG32, four bytes][payload]`. -/
def decode (packet : Buffer) : Except DecodeError Instr :=
  match packet with
  | op :: arg8 :: l1 :: l0 :: a3 :: a2 :: a1 :: a0 :: payload =>
    if payload.length = (ofBe16 l1 l0).toNat then decodeFields op arg8 (ofBe32 a3 a2 a1 a0) payload
    else .error .misdelimited
  | _ => .error .misdelimited

/-- The `OPCODE` byte of a command (rule R86). -/
def Instr.opcode : Instr → Byte
  | .chk5 _ _ => 0x01#8
  | .enc5 _ => 0x02#8
  | .chk16a _ => 0x03#8
  | .add16a _ => 0x04#8
  | .chk16b _ => 0x05#8
  | .add16b _ => 0x06#8
  | .chk32 _ => 0x07#8
  | .add32 _ => 0x08#8
  | .crc8 _ => 0x09#8
  | .crc9 _ => 0x0A#8
  | .sync _ => 0x10#8
  | .validate _ => 0x11#8
  | .procframe _ _ => 0x20#8
  | .procnet _ => 0x21#8
  | .getframe => 0x22#8
  | .clock _ => 0x23#8
  | .isbusy => 0x24#8
  | .reset => 0x25#8
  | .rdstat _ => 0x26#8
  | .rdlc _ => 0x27#8

/-- The `ARG8` byte of a command (rule R82). -/
def Instr.arg8 : Instr → Byte
  | .chk5 expected _ => expected
  | .procframe (some _) _ => 1#8
  | .procnet (some _) => 1#8
  | .rdstat sel => sel
  | .rdlc .net => 1#8
  | _ => 0#8

/-- The `ARG32` field of a command (rule R82). -/
def Instr.arg32 : Instr → Word32
  | .procframe (some raw) _ => 0#16 ++ raw
  | .clock ms => ms
  | _ => 0#32

/-- The packet of a well-formed command (rule R81). -/
def encode (i : Instr) : Buffer :=
  [i.opcode, i.arg8] ++ be16 (BitVec.ofNat 16 i.payload.length) ++ be32 i.arg32 ++ i.payload

/-- Byte `k` of the packet whose bits are `w`, of which the low `nbits` count: bits `8k+7 .. 8k`. -/
def tableByte (nbits w k : Nat) : Byte := BitVec.ofNat 8 ((w % 2 ^ nbits) >>> (8 * k))

/-- The packet whose bits are the low `nbits` bits of `w`, every bit above them zero: its eight header
bytes and the `LEN` payload bytes its header announces (rules R80, R81). -/
def tablePacket (nbits w : Nat) : Buffer :=
  (List.range (8 + (ofBe16 (tableByte nbits w 2) (tableByte nbits w 3)).toNat)).map
    (tableByte nbits w)

/-- The instruction the decoder reads from the packet of `w`, none where it refuses. -/
def decodeTableWord (nbits w : Nat) : Option Instr :=
  match decode (tablePacket nbits w) with
  | .ok i => some i
  | .error _ => none

end Sys2Proof
end

