-- ==== Sys2Proof/Config.lean ====
section
/-! DEFINITION. The configuration record `Cfg` (`00_scope.md` rules R7, R9, R10), with the types it is
made of (`41_framesync.md` rule R160, `43_validator.md` rules R191 to R193), and the one opaque
configuration the hardware was built with. The literals of rule R8, whose values the spec states, are
definitions of `Sys2Proof.Machine.Crc`. -/

namespace Sys2Proof

/-- Content of a matched frame (rule R160). -/
inductive Content where
  | voice
  | data
deriving DecidableEq, Repr

/-- Source of a matched frame (rule R160); `direct1` and `direct2` are direct mode slot 1 and 2. -/
inductive SyncSource where
  | bs
  | ms
  | direct1
  | direct2
deriving DecidableEq, Repr

/-- `SyncKind` (rule R160): a pair of content and source. -/
structure SyncKind where
  content : Content
  source : SyncSource
deriving DecidableEq, Repr

/-- `Role` of a validated frame (rule R191). -/
inductive Role where
  | header
  | payload
  | terminator
deriving DecidableEq, Repr

/-- `CheckSpec` (rule R193): which checksum covers which bytes of a frame. -/
inductive CheckSpec where
  | none
  | ccitt16v1 (off n : Nat)
  | ccitt16v2 (off n : Nat)
  | crc32 (off n : Nat)
  | fivebit (off eoff esh : Nat)
deriving DecidableEq, Repr

/-- `Profile`, the per-type validation recipe (rule R192). -/
structure Profile where
  role : Role
  check : CheckSpec
  hasIds : Bool
  carriesLc : Bool
deriving DecidableEq, Repr

/-- What `HDR_OF` reads from a frame (rule R9): destination, source, group flag. -/
structure HeaderIds where
  dst : Id
  src : Id
  grp : Bool
deriving DecidableEq, Repr

/-- `ARB_POLICY` (rule R9, decision D33). -/
inductive ArbPolicy where
  | rfPriority
  | netPriority
  | firstOwner
deriving DecidableEq, Repr

/-- The parameters of rule R9. The four that have a default there have the same default here. The
functions `HDR_OF`, `LC_OF` and `TYPE_OF` are used on buffers of `frameLen` bytes only. -/
structure Cfg where
  /-- `TABLE8`, 256 entries of 8 bits. -/
  table8 : Byte → Byte
  /-- `TABLE9`, 256 entries of 16 bits. -/
  table9 : Byte → BitVec 16
  /-- `INIT9`, default `0x00`. -/
  init9 : Byte := 0x00#8
  /-- `CRC32_TRAILER_LSB_FIRST`, default true. -/
  crc32LsbFirst : Bool := true
  /-- `FRAME_LEN`. -/
  frameLen : Nat
  /-- `SYNC_OFF`. -/
  syncOff : Nat
  /-- `SYNC_W`. -/
  syncW : Nat
  /-- `SYNC_MASK`. -/
  syncMask : Buffer
  /-- `SYNC_TABLE`. -/
  syncTable : List (Buffer × SyncKind)
  /-- `TYPE_OF`. -/
  typeOf : Buffer → Byte
  /-- `PROFILE`. -/
  profile : Byte → Option Profile
  /-- `VOICE_PROFILE`; default: role PAYLOAD, check NONE, no ids, no LC. -/
  voiceProfile : Profile := ⟨.payload, .none, false, false⟩
  /-- `HDR_OF`. -/
  hdrOf : Buffer → HeaderIds
  /-- `LC_OF`. -/
  lcOf : Buffer → Buffer
  /-- `LC_LEN`. -/
  lcLen : Nat
  /-- `ID_W`. -/
  idW : Nat
  /-- `RID_VALID`. -/
  ridValid : Id → Bool
  /-- `TG_VALID`. -/
  tgValid : Id → Bool
  /-- `RSSI_MAP`; the result is read as a signed 16-bit value. -/
  rssiMap : BitVec 16 → BitVec 16
  /-- `RF_TIMEOUT_MS`. -/
  rfTimeoutMs : Word32
  /-- `NET_TIMEOUT_MS`. -/
  netTimeoutMs : Word32
  /-- `HANG_MS`. -/
  hangMs : Word32
  /-- `QUEUE_DEPTH`. -/
  queueDepth : Nat
  /-- `ARB_POLICY`, default RF_PRIORITY. -/
  arbPolicy : ArbPolicy := .rfPriority

/-- The bytes of `p`, each AND the mask byte at its offset (rules R10, R162). -/
def maskBytes (mask p : Buffer) : Buffer := List.zipWith (· &&& ·) p mask

/-- The condition of rule R193 on a check specification, for frames of `frameLen` bytes: the check
lies inside the frame and meets the codec's minimum length. -/
def CheckSpec.fits (frameLen : Nat) : CheckSpec → Prop
  | .none => True
  | .ccitt16v1 off n => 2 < n ∧ off + n ≤ frameLen
  | .ccitt16v2 off n => 2 < n ∧ off + n ≤ frameLen
  | .crc32 off n => 4 < n ∧ off + n ≤ frameLen
  | .fivebit off eoff esh => off + 9 ≤ frameLen ∧ eoff < frameLen ∧ esh ≤ 3

/-- The type column of rule R9, where a Lean type is wider than the parameter's. -/
structure Cfg.Typed (c : Cfg) : Prop where
  frame_len : 1 ≤ c.frameLen ∧ c.frameLen ≤ 65535
  mask_width : c.syncMask.length = c.syncW
  pattern_width : ∀ e ∈ c.syncTable, e.1.length = c.syncW
  lc_len : c.lcLen ≤ 255
  lc_width : ∀ F : Buffer, F.length = c.frameLen → (c.lcOf F).length = c.lcLen
  id_width : 1 ≤ c.idW ∧ c.idW ≤ 32

/-- The six conditions of rule R10, in its order, beside the types of rule R9. -/
structure Cfg.WellFormed (c : Cfg) : Prop extends c.Typed where
  /-- Condition 1. -/
  sync_inside : 1 ≤ c.syncW ∧ c.syncOff + c.syncW ≤ c.frameLen
  /-- Condition 2, not empty. -/
  table_nonempty : c.syncTable ≠ []
  /-- Condition 2, no two entries equal after masking. -/
  table_distinct :
    c.syncTable.Pairwise fun e f => maskBytes c.syncMask e.1 ≠ maskBytes c.syncMask f.1
  /-- Condition 3, the profiles of the type codes. -/
  checks_fit : ∀ t p, c.profile t = some p → p.check.fits c.frameLen
  /-- Condition 3, the voice profile. -/
  voice_check_fits : c.voiceProfile.check.fits c.frameLen
  /-- Condition 4, headers carry ids. -/
  header_ids : ∀ t p, c.profile t = some p → p.role = .header → p.hasIds = true
  /-- Condition 4, the role of the voice profile. -/
  voice_role : c.voiceProfile.role = .payload
  /-- Condition 5. -/
  depth_pos : 1 ≤ c.queueDepth
  /-- Condition 6. -/
  ids_fit : ∀ F : Buffer, F.length = c.frameLen →
    (c.hdrOf F).dst.toNat < 2 ^ c.idW ∧ (c.hdrOf F).src.toNat < 2 ^ c.idW

/-- A configuration that is well formed: it only shows that one exists, so that the opaque constant
below may be declared. Nothing is proved from its values. -/
def Cfg.smallest : Cfg where
  table8 := fun _ => 0
  table9 := fun _ => 0
  frameLen := 1
  syncOff := 0
  syncW := 1
  syncMask := [0]
  syncTable := [([0], ⟨.voice, .bs⟩)]
  typeOf := fun _ => 0
  profile := fun _ => none
  hdrOf := fun _ => ⟨0, 0, false⟩
  lcOf := fun _ => []
  lcLen := 0
  idW := 1
  ridValid := fun _ => true
  tgValid := fun _ => true
  rssiMap := fun _ => 0
  rfTimeoutMs := 0
  netTimeoutMs := 0
  hangMs := 0
  queueDepth := 1

theorem Cfg.smallest_wellFormed : Cfg.smallest.WellFormed where
  frame_len := by decide
  mask_width := rfl
  pattern_width := by decide
  lc_len := by decide
  lc_width := fun _ _ => rfl
  id_width := by decide
  sync_inside := by decide
  table_nonempty := by decide
  table_distinct := by decide
  checks_fit := fun _ _ h => by cases h
  voice_check_fits := trivial
  header_ids := fun _ _ h => by cases h
  voice_role := rfl
  depth_pos := by decide
  ids_fit := fun _ _ => ⟨by simp [Cfg.smallest], by simp [Cfg.smallest]⟩

/-- A configuration together with the proof that it is well formed. An ill-formed `Cfg` is given no
behaviour (rules R7 and R10): it cannot be built as a `BuiltCfg`, and the machine runs one. -/
structure BuiltCfg where
  cfg : Cfg := Cfg.smallest
  wellFormed : cfg.WellFormed := by exact Cfg.smallest_wellFormed
deriving Inhabited

/-- The configuration fixed before hardware reset (rules R7, R293, R294). It has no body: no value of
any of its parameters can be proved, so what is proved of the machine holds for every well-formed
configuration (notes/assumptions/1.md). -/
opaque Config.built : BuiltCfg

end Sys2Proof
end

