-- ==== Sys2Proof/Machine/Hardware.lean ====
section
/-! DEFINITION. The configuration the machine runs: the opaque well-formed one, with the two values that
the spec gives the hardware (`40_errorcodec.md` rules R141 and R151, notes/assumptions/2.md). -/

namespace Sys2Proof.Machine

/-- The hardware's `Cfg`: `CRC32_TRAILER_LSB_FIRST = true` (rule R141) and `INIT9 = 0x00`
(rule R151); every other parameter of rule R9 is that of `Config.built` and stays open. -/
def cfg : Cfg := { Config.built.cfg with init9 := 0x00#8, crc32LsbFirst := true }

end Sys2Proof.Machine
end

