-- ==== Sys2Proof/Machine/State.lean ====
section
/-! DEFINITION. The state of the machine (`10_state.md`): the spec's record `S` as `Block`, the response
of the last command, and the host inputs not yet read; the reasons a step can stop; reset. -/

namespace Sys2Proof.Machine

/-- `ProtocolState` (rule R27). No rule of the spec writes `ending`. -/
inductive ProtocolState where
  | idle
  | receiving
  | active
  | ending
deriving DecidableEq, Repr

/-- Timer state (rule R29). -/
inductive TimerState where
  | stopped
  | running
  | expired
deriving DecidableEq, Repr

/-- A `Timer` (rule R29): `rem` is the milliseconds left. -/
structure Timer where
  ts : TimerState := .stopped
  rem : Word32 := 0#32
deriving DecidableEq, Repr

/-- `RSSIStats` (rule R31): `min` and `max` are signed 16-bit, `sum` is signed 48-bit. -/
structure RssiStats where
  count : Word32 := 0#32
  min : BitVec 16 := 0#16
  max : BitVec 16 := 0#16
  sum : BitVec 48 := 0#48
deriving DecidableEq, Repr

/-- `Counters` of a half (rule R33): 32 bits each, unsigned, saturating. -/
structure Counters where
  err : Word32 := 0#32
  malformed : Word32 := 0#32
  check : Word32 := 0#32
  seq : Word32 := 0#32
  id : Word32 := 0#32
  arbReject : Word32 := 0#32
  arbDup : Word32 := 0#32
  hangReject : Word32 := 0#32
  ignored : Word32 := 0#32
  accepted : Word32 := 0#32
  endGraceful : Word32 := 0#32
  endTimeout : Word32 := 0#32
  endForced : Word32 := 0#32
  endPreempted : Word32 := 0#32
deriving DecidableEq, Repr

/-- A `Half`, the per-origin call state (rule R26). -/
structure Half where
  st : ProtocolState := .idle
  tmo : Timer := {}
  lcValid : Bool := false
  lc : Buffer
  rssi : RssiStats := {}
  cnt : Counters := {}
deriving DecidableEq, Repr

/-- `DestinationContext` (rule R34). -/
structure Context where
  valid : Bool := false
  dst : Id := 0#32
  src : Id := 0#32
  grp : Bool := false
  owner : Origin := .rf
  hang : Timer := {}
deriving DecidableEq, Repr

/-- `QEntry` (rule R38): a frame with its origin tag. -/
structure QEntry where
  origin : Origin
  bytes : Buffer
deriving DecidableEq, Repr

/-- `Pending` (rule R40): the frame that was accepted while the queue was full. -/
structure Pending where
  valid : Bool := false
  origin : Origin := .rf
  bytes : Buffer
deriving DecidableEq, Repr

/-- The whole architectural state, the record `S` of rule R22. -/
structure Block where
  fault : Bool := false
  faultCause : Byte := 0#8
  rf : Half
  net : Half
  ctx : Context := {}
  q : List QEntry := []
  pend : Pending
  cntBp : Word32 := 0#32
deriving DecidableEq, Repr

/-- Status codes (rule R85); `ok` is both OK and ACCEPTED, which share the code `0x00`. -/
inductive Status where
  | ok
  | dropLength
  | dropSync
  | dropType
  | dropCheck
  | dropSeq
  | dropId
  | arbReject
  | arbDuplicate
  | hangReject
  | ignored
  | backpressure
  | netEmpty
  | badCmd
  | faultNow
  | faulted
deriving DecidableEq, Repr

/-- Event codes (rule R88). -/
inductive EventCode where
  | callStart
  | callEnd
  | rssiReport
  | arbReject
  | arbDuplicate
  | hangReject
  | idReject
  | hangExpired
deriving DecidableEq, Repr

/-- Reason codes of `CALL_END` (rule R89). -/
inductive EndReason where
  | graceful
  | timeout
  | forced
  | preempted
deriving DecidableEq, Repr

/-- An event record (rule R87); `reason` is `none` where the record's byte is 0. -/
structure Event where
  code : EventCode
  origin : Origin
  reason : Option EndReason := none
  grp : Bool := false
  a : Word32 := 0#32
  b : Word32 := 0#32
  c : Word32 := 0#32
deriving DecidableEq, Repr

/-- A response (rule R83), its `LEN` and `NEV` being the lengths of `payload` and `events`. -/
structure Response where
  status : Status
  result : Bool := false
  bp : Bool := false
  res32 : Word32 := 0#32
  payload : Buffer := []
  events : List Event := []
deriving DecidableEq, Repr

/-- What the host, or the platform around it, can do to the block between two commands: present a
command packet (rule R81) or apply hardware reset (rule R290). -/
inductive HostInput where
  | command (packet : Buffer)
  | hardwareReset
deriving DecidableEq, Repr

/-- The state of the machine: the spec's `S` and two fields of the model's own. `inputs` is the
command stream of rules R6 and R70, oldest first (notes/assumptions/3.md); `resp` is the response of
the last command (notes/assumptions/4.md). -/
structure State where
  blk : Block
  inputs : List HostInput := []
  resp : Option Response := none
deriving DecidableEq, Repr

/-- Why a step stops with a fault. There is no such reason: the one fatal fault of the spec is a latch,
after which the block goes on answering FAULTED (rules R262, R263; notes/assumptions/8.md). -/
inductive Fault where
deriving DecidableEq, Repr

/-- Why a step is refused. -/
inductive Refusal where
  /-- Raised by `exec` for an instruction without a meaning; no arm raises it. Safe. -/
  | notModelled (mnemonic : String)
  /-- Raised by `step` for a packet whose length is not `8 + LEN`, a transport error to which the spec
  gives no behaviour (rule R93, notes/assumptions/5.md). Safe. -/
  | misdelimitedPacket
deriving DecidableEq, Repr

/-- The half of an origin after reset (rules R26, R31, R33). -/
def Half.reset (c : Cfg) : Half := { lc := zeros c.lcLen }

/-- The reset state of `S` (rule R46). -/
def Block.reset (c : Cfg) : Block :=
  { rf := Half.reset c, net := Half.reset c, pend := { bytes := zeros c.frameLen } }

/-- The machine right after hardware reset (rules R46, R290): no input yet, no response yet. -/
def State.reset : State := { blk := Block.reset cfg }

end Sys2Proof.Machine
end

