-- ==== Sys2Proof/Machine/Flags.lean ====
section
/-! DEFINITION. Numeric encodings of the spec's enumerations, the flags byte, and the byte form of
responses and event records (`30_encoding.md` rules R83 to R90, `10_state.md` rules R27, R29). -/

namespace Sys2Proof.Machine

/-- A flag as one bit of a word. -/
def flagBit (f : Bool) : Word32 := if f then 1#32 else 0#32

/-- Origin code (rule R90): RF 0, NET 1. -/
def originCode : Origin → Byte
  | .rf => 0#8
  | .net => 1#8

/-- ProtocolState code (rule R27). -/
def stateCode : ProtocolState → Byte
  | .idle => 0#8
  | .receiving => 1#8
  | .active => 2#8
  | .ending => 3#8

/-- Timer state code (rule R29). -/
def timerCode : TimerState → Byte
  | .stopped => 0#8
  | .running => 1#8
  | .expired => 2#8

/-- Content code, bit 0 of a kind code (rule R90). -/
def contentCode : Content → Byte
  | .voice => 0#8
  | .data => 1#8

/-- Source code, bits 2:1 of a kind code (rule R90). -/
def sourceCode : SyncSource → Byte
  | .bs => 0#8
  | .ms => 1#8
  | .direct1 => 2#8
  | .direct2 => 3#8

/-- `SyncKind` code, three bits (rule R90). -/
def kindCode (k : SyncKind) : Byte := (sourceCode k.source <<< 1) ||| contentCode k.content

/-- `Role` code (rule R90). -/
def roleCode : Role → Byte
  | .header => 0#8
  | .payload => 1#8
  | .terminator => 2#8

/-- Status code (rule R85). -/
def statusCode : Status → Byte
  | .ok => 0x00#8
  | .dropLength => 0x01#8
  | .dropSync => 0x02#8
  | .dropType => 0x03#8
  | .dropCheck => 0x04#8
  | .dropSeq => 0x05#8
  | .dropId => 0x06#8
  | .arbReject => 0x07#8
  | .arbDuplicate => 0x08#8
  | .hangReject => 0x09#8
  | .ignored => 0x0A#8
  | .backpressure => 0x0B#8
  | .netEmpty => 0x0C#8
  | .badCmd => 0xFD#8
  | .faultNow => 0xFE#8
  | .faulted => 0xFF#8

/-- Event code (rule R88). -/
def eventCode : EventCode → Byte
  | .callStart => 0x01#8
  | .callEnd => 0x02#8
  | .rssiReport => 0x03#8
  | .arbReject => 0x04#8
  | .arbDuplicate => 0x05#8
  | .hangReject => 0x06#8
  | .idReject => 0x07#8
  | .hangExpired => 0x08#8

/-- Reason byte of an event (rules R87, R89): 0 where there is none. -/
def reasonCode : Option EndReason → Byte
  | none => 0x00#8
  | some .graceful => 0x01#8
  | some .timeout => 0x02#8
  | some .forced => 0x03#8
  | some .preempted => 0x04#8

/-- The `FLAGS` byte (rules R83, R84): bit 0 `RESULT`, bit 1 `BP`, bits 7:2 zero. -/
def flagsByte (result bp : Bool) : Byte :=
  (if bp then 2#8 else 0#8) ||| (if result then 1#8 else 0#8)

/-- The 16 bytes of an event record (rule R87). -/
def Event.record (e : Event) : Buffer :=
  [eventCode e.code, originCode e.origin, reasonCode e.reason, if e.grp then 1#8 else 0#8]
    ++ be32 e.a ++ be32 e.b ++ be32 e.c

/-- The response packet (rule R83). -/
def Response.packet (r : Response) : Buffer :=
  [statusCode r.status, flagsByte r.result r.bp]
    ++ be16 (BitVec.ofNat 16 r.payload.length) ++ be32 r.res32 ++ r.payload
    ++ [BitVec.ofNat 8 r.events.length] ++ r.events.flatMap Event.record

end Sys2Proof.Machine
end

