-- ==== Sys2Proof/Machine/Ops.lean ====
section
/-! DEFINITION. Operations that the meanings share: the halves, saturating counters, the delivery queue
and the timers (`42_ringbuffer_timer.md`), the RSSI record (`10_state.md` rule R31), answering a
command, the fatal fault and the one way out of it (`60_exceptions.md` rules R262, R263,
`70_reset_and_hazards.md` rule R290). -/

namespace Sys2Proof.Machine

/-- `S.H[o]` (rule R13). -/
def Block.half (b : Block) : Origin → Half
  | .rf => b.rf
  | .net => b.net

/-- `S.H[o] <- h` (rule R13). -/
def Block.setHalf (b : Block) (o : Origin) (h : Half) : Block :=
  match o with
  | .rf => { b with rf := h }
  | .net => { b with net := h }

/-- The other origin, `other(o)` (rule R13). -/
def other : Origin → Origin
  | .rf => .net
  | .net => .rf

/-- The machine after a command: the block's new state and the response it returned. -/
def State.answer (s : State) (r : Block × Response) : State :=
  { s with blk := r.1, resp := some r.2 }

/-- `sat_32(v + 1)` (rules R11, R33): an increment at `0xFFFFFFFF` leaves `0xFFFFFFFF`. -/
def satInc (v : Word32) : Word32 := if v = 0xFFFFFFFF#32 then v else v + 1#32

/-! ### The delivery queue -/

/-- `q_push` (rule R171): `none` when the queue is full, and it is then unchanged. -/
def qPush (depth : Nat) (q : List QEntry) (e : QEntry) : Option (List QEntry) :=
  if q.length = depth then none else some (q ++ [e])

/-- `q_pop` (rule R172): `none` when the queue is empty, else its head and the rest. -/
def qPop (q : List QEntry) : Option (QEntry × List QEntry) :=
  match q with
  | [] => none
  | e :: rest => some (e, rest)

/-! ### Timers -/

/-- `t_start` (rule R181). -/
def Timer.start (T : Word32) : Timer := { ts := .running, rem := T }

/-- `t_stop` (rule R182). -/
def Timer.stop : Timer := { ts := .stopped, rem := 0#32 }

/-- `t_advance` (rule R183): a stopped or expired timer is unchanged. -/
def Timer.advance (ms : Word32) (t : Timer) : Timer :=
  if t.ts = .running then
    let left := t.rem - (if ms ≤ t.rem then ms else t.rem)
    { ts := if left = 0#32 then .expired else .running, rem := left }
  else t

/-- `t_expired` (rule R184). -/
def Timer.expired (t : Timer) : Bool := decide (t.ts = .expired)

/-! ### The RSSI record -/

/-- The average of rule R31: `sum quot count`, truncated toward zero; 0 when there is no sample. -/
def RssiStats.avg (r : RssiStats) : Int :=
  if r.count = 0#32 then 0 else Int.tdiv r.sum.toInt (r.count.toNat : Int)

/-- `sext_32(avg)` (rules R45, R88). -/
def RssiStats.avgWord (r : RssiStats) : Word32 := BitVec.ofInt 32 r.avg

/-- `min` and `max` as one word: bits 31:16 and 15:0 (rules R45, R88). -/
def RssiStats.minMaxWord (r : RssiStats) : Word32 := r.min ++ r.max

/-- `rssi_update` with the mapped sample `x` (rule R226): ignored when the count is saturated. -/
def RssiStats.add (x : BitVec 16) (r : RssiStats) : RssiStats :=
  if r.count = 0xFFFFFFFF#32 then r
  else
    { count := r.count + 1#32
      min := if r.count = 0#32 then x else if x.slt r.min then x else r.min
      max := if r.count = 0#32 then x else if r.max.slt x then x else r.max
      sum := r.sum + x.signExtend 48 }

/-! ### Destinations -/

/-- `same_dst(d, g)` (rule R36). -/
def Context.sameDst (ctx : Context) (d : Id) (g : Bool) : Bool :=
  ctx.valid && decide (ctx.dst = d) && decide (ctx.grp = g)

/-! ### Answering, refusing, faulting -/

/-- Cause code `CODEC_SHORT` (rule R262). -/
def codecShort : Byte := 0x01#8

/-- The response of a refused command (rule R92). -/
def Response.badCmd : Response := { status := .badCmd }

/-- The response of a faulted block (rule R263): `RES32` carries the cause. -/
def Response.faulted (cause : Byte) : Response :=
  { status := .faulted, res32 := cause.setWidth 32 }

/-- `raise Fatal(cause)` (rules R262, R269), the block's one exception: the latch is set, the cause is
kept, and nothing else of the state changes. -/
def raiseFatal (cause : Byte) (b : Block) : Block × Response :=
  ({ b with fault := true, faultCause := cause }, { status := .faultNow })

/-- Hardware reset (rules R270, R290): the only way out of the fault. It discards all state. -/
def hardwareReset (c : Cfg) (_ : Block) : Block := Block.reset c

/-- The fault gate before every command (rules R93 step 1, R263): a faulted block answers FAULTED and
changes nothing. -/
def gate (b : Block) (body : Block × Response) : Block × Response :=
  if b.fault then (b, Response.faulted b.faultCause) else body

/-- A refused command (rules R92, R93): FAULTED if the block is faulted, else BADCMD. -/
def refuseCommand (b : Block) : Block × Response := gate b (b, Response.badCmd)

end Sys2Proof.Machine
end

