-- ==== Sys2Proof/Machine/Crc.lean ====
section
/-! DEFINITION. The checksum functions (`00_scope.md` rules R8 and R14, `40_errorcodec.md` rules R121,
R130, R140, R141, R150, R151) and the literals of rule R8. -/

namespace Sys2Proof.Machine

/-! ### The literals of rule R8 (stated by the document, unaudited; notes/assumptions/2.md) -/

/-- `POLY16_1`. -/
def poly16v1 : BitVec 16 := 0x1189#16
/-- `INIT16_1`. -/
def init16v1 : BitVec 16 := 0xFFFF#16
/-- `POLY16_2`. -/
def poly16v2 : BitVec 16 := 0x1021#16
/-- `INIT16_2`. -/
def init16v2 : BitVec 16 := 0x0000#16
/-- `POLY32`. -/
def poly32 : Word32 := 0x04C11DB5#32
/-- `INIT32`. -/
def init32 : Word32 := 0xFFFFFFFF#32
/-- `INIT8`. -/
def init8 : Byte := 0x00#8
/-- `FIVEBIT_BITS`. -/
def fivebitBits : Nat := 72
/-- `FIVEBIT_GROUPS`. -/
def fivebitGroups : Nat := 9
/-- `FIVEBIT_MOD`. -/
def fivebitMod : Nat := 31
/-- `CRC32_MIN_EXCL`. -/
def crc32MinExcl : Nat := 4
/-- The CRC-16 functions need more than two bytes (rule R120). -/
def crc16MinExcl : Nat := 2

/-! ### The generic CRC register (rule R14) -/

/-- One shift of the register with polynomial `P`. -/
def crcBit {W : Nat} (P c : BitVec W) : BitVec W :=
  if c.msb then (c <<< 1) ^^^ P else c <<< 1

/-- `n` shifts. -/
def crcShift {W : Nat} (P : BitVec W) : Nat → BitVec W → BitVec W
  | 0, c => c
  | n + 1, c => crcShift P n (crcBit P c)

/-- `crc_update(W, P, c, b)`. -/
def crcUpdate {W : Nat} (P c : BitVec W) (b : Byte) : BitVec W :=
  crcShift P 8 (c ^^^ (b.setWidth W <<< (W - 8)))

/-- `crc_table(W, P)[i]`. -/
def crcTable {W : Nat} (P : BitVec W) (i : Byte) : BitVec W := crcUpdate P 0#W i

/-- `crc_run(W, P, init, B)`. -/
def crcRun {W : Nat} (P init : BitVec W) (B : Buffer) : BitVec W := B.foldl (crcUpdate P) init

/-! ### The functions -/

/-- Group `k` of the five-bit checksum: eight bits of the stream, most significant first (rule R121). -/
def fivebitGroup (B : Buffer) (k : Nat) : Nat :=
  (List.range 8).foldl (fun v j => 2 * v + (bitAt B (8 * k + j)).toNat) 0

/-- The five-bit value (rule R121): the exact sum of the nine groups, reduced once. -/
def fivebitValue (B : Buffer) : Nat :=
  ((List.range fivebitGroups).foldl (fun total k => total + fivebitGroup B k) 0) % fivebitMod

/-- `crc16_value` (rule R130): over all but the two trailing bytes, inverted. -/
def crc16Value (P init : BitVec 16) (B : Buffer) : BitVec 16 :=
  ~~~ crcRun P init (B.take (B.length - 2))

/-- Variant 1 (rule R131). -/
def crc16aValue (B : Buffer) : BitVec 16 := crc16Value poly16v1 init16v1 B

/-- Variant 2 (rule R134). -/
def crc16bValue (B : Buffer) : BitVec 16 := crc16Value poly16v2 init16v2 B

/-- Trailer of variant 1: the high byte first (rules R63, R131). -/
def trailer16a (v : BitVec 16) : Buffer := [hiByte v, loByte v]

/-- Trailer of variant 2: the low byte first (rules R63, R134). -/
def trailer16b (v : BitVec 16) : Buffer := [loByte v, hiByte v]

/-- `crc32_value` (rule R140): over all but the four trailing bytes, inverted. -/
def crc32Value (B : Buffer) : Word32 := ~~~ crcRun poly32 init32 (B.take (B.length - 4))

/-- The CRC-32 trailer (rule R141), least significant byte at the lowest offset when `lsbFirst`. -/
def trailer32 (lsbFirst : Bool) (v : Word32) : Buffer :=
  if lsbFirst then [byteOf32 v 0, byteOf32 v 1, byteOf32 v 2, byteOf32 v 3]
  else [byteOf32 v 3, byteOf32 v 2, byteOf32 v 1, byteOf32 v 0]

/-- Whether the bytes of `B` from its end hold the trailer `t`. -/
def trailerMatches (B t : Buffer) : Bool := decide (B.drop (B.length - t.length) = t)

/-- `B` with its last bytes replaced by the trailer `t`. -/
def withTrailer (B t : Buffer) : Buffer := B.take (B.length - t.length) ++ t

/-- The `RESULT` of `CHK5` on `B` with expected value `e`, all of whose bits take part (rule R122). -/
def check5 (e : Byte) (B : Buffer) : Bool := decide (fivebitValue B = e.toNat)

/-- The `RESULT` of `CHK16A` on `B` (rule R131). -/
def check16a (B : Buffer) : Bool := trailerMatches B (trailer16a (crc16aValue B))

/-- The `RESULT` of `CHK16B` on `B` (rule R134). -/
def check16b (B : Buffer) : Bool := trailerMatches B (trailer16b (crc16bValue B))

/-- The `RESULT` of `CHK32` on `B` (rule R142). -/
def check32 (lsbFirst : Bool) (B : Buffer) : Bool :=
  trailerMatches B (trailer32 lsbFirst (crc32Value B))

/-- The running value of `CRC8` (rule R150). -/
def crc8Value (table8 : Byte → Byte) (B : Buffer) : Byte :=
  B.foldl (fun c b => table8 (c ^^^ b)) init8

/-- The running value of `CRC9` (rule R151): each table entry masked to eight bits. -/
def crc9Value (table9 : Byte → BitVec 16) (init9 : Byte) (B : Buffer) : Byte :=
  B.foldl (fun s b => (table9 (s ^^^ b)).setWidth 8) init9

end Sys2Proof.Machine
end

