-- ==== Sys2Proof/Machine/ErrorCodec.lean ====
section
/-! DEFINITION. The ten codec commands (`40_errorcodec.md`). Each is a function of the configuration
where it reads it, the operands and the block; `exec…` is the command on the machine. -/

namespace Sys2Proof.Machine

/-- What every codec command does first (rules R120, R262): a payload below `minLen` bytes raises the
fatal fault; otherwise the command answers `r` and the state is unchanged. -/
def codec (minLen : Nat) (payload : Buffer) (b : Block) (r : Response) : Block × Response :=
  gate b (if payload.length < minLen then raiseFatal codecShort b else (b, r))

/-- A check command's answer: `RESULT` is the verdict, `RES32` the computed value. -/
def checkResponse (ok : Bool) (v : Word32) : Response := { status := .ok, result := ok, res32 := v }

/-- A generator's answer: `RESULT = 1`, the value, and the payload it returns. -/
def valueResponse (v : Word32) (out : Buffer) : Response :=
  { status := .ok, result := true, res32 := v, payload := out }

/-- `CHK5` (rule R122). -/
def doChk5 (expected : Byte) (payload : Buffer) (b : Block) : Block × Response :=
  codec fivebitGroups payload b
    (checkResponse (check5 expected payload) (BitVec.ofNat 32 (fivebitValue payload)))

/-- `ENC5` (rule R121). -/
def doEnc5 (payload : Buffer) (b : Block) : Block × Response :=
  codec fivebitGroups payload b (valueResponse (BitVec.ofNat 32 (fivebitValue payload)) [])

/-- `CHK16A` (rule R131). -/
def doChk16a (payload : Buffer) (b : Block) : Block × Response :=
  codec (crc16MinExcl + 1) payload b
    (checkResponse (check16a payload) ((crc16aValue payload).setWidth 32))

/-- `ADD16A` (rule R132). -/
def doAdd16a (payload : Buffer) (b : Block) : Block × Response :=
  codec (crc16MinExcl + 1) payload b
    (valueResponse ((crc16aValue payload).setWidth 32)
      (withTrailer payload (trailer16a (crc16aValue payload))))

/-- `CHK16B` (rule R134). -/
def doChk16b (payload : Buffer) (b : Block) : Block × Response :=
  codec (crc16MinExcl + 1) payload b
    (checkResponse (check16b payload) ((crc16bValue payload).setWidth 32))

/-- `ADD16B` (rule R135). -/
def doAdd16b (payload : Buffer) (b : Block) : Block × Response :=
  codec (crc16MinExcl + 1) payload b
    (valueResponse ((crc16bValue payload).setWidth 32)
      (withTrailer payload (trailer16b (crc16bValue payload))))

/-- `CHK32` (rule R142). -/
def doChk32 (c : Cfg) (payload : Buffer) (b : Block) : Block × Response :=
  codec (crc32MinExcl + 1) payload b
    (checkResponse (check32 c.crc32LsbFirst payload) (crc32Value payload))

/-- `ADD32` (rule R143). -/
def doAdd32 (c : Cfg) (payload : Buffer) (b : Block) : Block × Response :=
  codec (crc32MinExcl + 1) payload b
    (valueResponse (crc32Value payload)
      (withTrailer payload (trailer32 c.crc32LsbFirst (crc32Value payload))))

/-- `CRC8` (rule R150). -/
def doCrc8 (c : Cfg) (payload : Buffer) (b : Block) : Block × Response :=
  codec 1 payload b (valueResponse ((crc8Value c.table8 payload).setWidth 32) [])

/-- `CRC9` (rule R151): the eight-bit state widened to 16 and then to 32 bits. -/
def doCrc9 (c : Cfg) (payload : Buffer) (b : Block) : Block × Response :=
  codec 1 payload b
    (valueResponse (((crc9Value c.table9 c.init9 payload).setWidth 16).setWidth 32) [])

/-- `CHK5` on the machine. -/
def execChk5 (expected : Byte) (payload : Buffer) (s : State) :
    Host.Outcome State Fault Refusal := .next (s.answer (doChk5 expected payload s.blk))

/-- `ENC5` on the machine. -/
def execEnc5 (payload : Buffer) (s : State) : Host.Outcome State Fault Refusal :=
  .next (s.answer (doEnc5 payload s.blk))

/-- `CHK16A` on the machine. -/
def execChk16a (payload : Buffer) (s : State) : Host.Outcome State Fault Refusal :=
  .next (s.answer (doChk16a payload s.blk))

/-- `ADD16A` on the machine. -/
def execAdd16a (payload : Buffer) (s : State) : Host.Outcome State Fault Refusal :=
  .next (s.answer (doAdd16a payload s.blk))

/-- `CHK16B` on the machine. -/
def execChk16b (payload : Buffer) (s : State) : Host.Outcome State Fault Refusal :=
  .next (s.answer (doChk16b payload s.blk))

/-- `ADD16B` on the machine. -/
def execAdd16b (payload : Buffer) (s : State) : Host.Outcome State Fault Refusal :=
  .next (s.answer (doAdd16b payload s.blk))

/-- `CHK32` on the machine. -/
def execChk32 (payload : Buffer) (s : State) : Host.Outcome State Fault Refusal :=
  .next (s.answer (doChk32 cfg payload s.blk))

/-- `ADD32` on the machine. -/
def execAdd32 (payload : Buffer) (s : State) : Host.Outcome State Fault Refusal :=
  .next (s.answer (doAdd32 cfg payload s.blk))

/-- `CRC8` on the machine. -/
def execCrc8 (payload : Buffer) (s : State) : Host.Outcome State Fault Refusal :=
  .next (s.answer (doCrc8 cfg payload s.blk))

/-- `CRC9` on the machine. -/
def execCrc9 (payload : Buffer) (s : State) : Host.Outcome State Fault Refusal :=
  .next (s.answer (doCrc9 cfg payload s.blk))

end Sys2Proof.Machine
end

