-- ==== Sys2Proof/Machine/FrameSync.lean ====
section
/-! DEFINITION. FrameSync, the sync-pattern classifier (`41_framesync.md`), and the command `SYNC`. -/

namespace Sys2Proof.Machine

/-- The sync field of a buffer: `B[SYNC_OFF .. SYNC_OFF+SYNC_W-1]` (rule R162). -/
def syncField (c : Cfg) (B : Buffer) : Buffer := slice B c.syncOff c.syncW

/-- Whether a table pattern matches the sync field, exactly after masking (rule R162). -/
def patternMatches (c : Cfg) (B P : Buffer) : Bool :=
  decide (maskBytes c.syncMask (syncField c B) = maskBytes c.syncMask P)

/-- `classify` (rule R162): the kind of the first entry that matches, `none` for NoMatch. A buffer too
short to hold the sync field matches nothing. -/
def classify (c : Cfg) (B : Buffer) : Option SyncKind :=
  if B.length < c.syncOff + c.syncW then none
  else (c.syncTable.find? fun e => patternMatches c B e.1).map Prod.snd

/-- `SYNC` (rule R163). -/
def doSync (c : Cfg) (payload : Buffer) (b : Block) : Block × Response :=
  gate b (b, { status := .ok
               result := (classify c payload).isSome
               res32 := match classify c payload with
                 | some k => (kindCode k).setWidth 32
                 | none => 0#32 })

/-- `SYNC` on the machine. -/
def execSync (payload : Buffer) (s : State) : Host.Outcome State Fault Refusal :=
  .next (s.answer (doSync cfg payload s.blk))

end Sys2Proof.Machine
end

