-- ==== Sys2Proof/Machine/Validator.lean ====
section
/-! DEFINITION. The frame validator (`43_validator.md`) and the command `VALIDATE`. -/

namespace Sys2Proof.Machine

/-- The verdict of `validate` (rule R194). -/
inductive Verdict where
  | drop (status : Status) (kind : Option SyncKind) (type : Option Byte)
  | valid (kind : SyncKind) (type : Byte) (profile : Profile)
deriving DecidableEq, Repr

/-- `check_ok` of a check specification on a frame (rule R193). -/
def checkOk (c : Cfg) (F : Buffer) : CheckSpec → Bool
  | .none => true
  | .ccitt16v1 off n => check16a (slice F off n)
  | .ccitt16v2 off n => check16b (slice F off n)
  | .crc32 off n => check32 c.crc32LsbFirst (slice F off n)
  | .fivebit off eoff esh => check5 ((F.getD eoff 0#8 >>> esh) &&& 0x1F#8) (slice F off 9)

/-- The last stage of rule R194: the profile's checksum. -/
def validateCheck (c : Cfg) (F : Buffer) (kind : SyncKind) (type : Byte) (p : Profile) : Verdict :=
  if checkOk c F p.check then .valid kind type p else .drop .dropCheck (some kind) (some type)

/-- The stage after the sync match: dispatch by content (rules R194, R195, R197). -/
def validateKind (c : Cfg) (F : Buffer) (kind : SyncKind) : Verdict :=
  match kind.content with
  | .voice => validateCheck c F kind 0#8 c.voiceProfile
  | .data =>
    match c.profile (c.typeOf F) with
    | none => .drop .dropType (some kind) (some (c.typeOf F))
    | some p => validateCheck c F kind (c.typeOf F) p

/-- `validate` (rule R194): length, sync, type, checksum, in that order. -/
def validate (c : Cfg) (F : Buffer) : Verdict :=
  if F.length ≠ c.frameLen then .drop .dropLength none none
  else
    match classify c F with
    | none => .drop .dropSync none none
    | some kind => validateKind c F kind

/-- `RES32` of `VALIDATE` (rules R90, R198): bits 2:0 kind, 15:8 type code, 17:16 role. -/
def validateWord (kind : Option SyncKind) (type : Option Byte) (role : Option Role) : Word32 :=
  ((role.map roleCode).getD 0#8).setWidth 32 <<< 16 ||| (type.getD 0#8).setWidth 32 <<< 8
    ||| ((kind.map kindCode).getD 0#8).setWidth 32

/-- The response of `VALIDATE` to a verdict (rule R198). -/
def validateResponse : Verdict → Response
  | .drop status kind type => { status := status, res32 := validateWord kind type none }
  | .valid kind type p =>
    { status := .ok, result := true, res32 := validateWord (some kind) (some type) (some p.role) }

/-- `VALIDATE` (rule R198). -/
def doValidate (c : Cfg) (payload : Buffer) (b : Block) : Block × Response :=
  gate b (b, validateResponse (validate c payload))

/-- `VALIDATE` on the machine. -/
def execValidate (payload : Buffer) (s : State) : Host.Outcome State Fault Refusal :=
  .next (s.answer (doValidate cfg payload s.blk))

end Sys2Proof.Machine
end

