-- ==== Sys2Proof/Machine/Control.lean ====
section
/-! DEFINITION. ProtocolControl (`44_control.md`): the procedure `process` that `PROCFRAME` and `PROCNET`
share, the steps of `CLOCK`, and the commands `PROCFRAME`, `PROCNET`, `GETFRAME`, `CLOCK`, `ISBUSY` and
`RESET`. -/

namespace Sys2Proof.Machine

/-! ### Responses of `process` (rule R210) -/

/-- The answer to a frame that was not accepted. -/
def rejected (status : Status) (events : List Event) : Response :=
  { status := status, events := events }

/-- The answer to an accepted frame; `bp` is set when it went to the pending slot (rule R84). -/
def accepted (bp : Bool) (events : List Event) : Response :=
  { status := .ok, result := true, bp := bp, events := events }

/-! ### Counters (rule R33) -/

/-- One of the error classes of a half, with the counter `err` that advances with each of them. -/
inductive ErrorClass where
  | malformed
  | check
  | seq
  | id
  | arbReject
  | arbDup
  | hangReject
deriving DecidableEq, Repr

/-- The counters after an error of a class (rule R33): the class and `err`. -/
def Counters.countError (cnt : Counters) : ErrorClass → Counters
  | .malformed => { cnt with malformed := satInc cnt.malformed, err := satInc cnt.err }
  | .check => { cnt with check := satInc cnt.check, err := satInc cnt.err }
  | .seq => { cnt with seq := satInc cnt.seq, err := satInc cnt.err }
  | .id => { cnt with id := satInc cnt.id, err := satInc cnt.err }
  | .arbReject => { cnt with arbReject := satInc cnt.arbReject, err := satInc cnt.err }
  | .arbDup => { cnt with arbDup := satInc cnt.arbDup, err := satInc cnt.err }
  | .hangReject => { cnt with hangReject := satInc cnt.hangReject, err := satInc cnt.err }

/-- The counters after the end of a call (rules R33, R219). -/
def Counters.countEnd (cnt : Counters) : EndReason → Counters
  | .graceful => { cnt with endGraceful := satInc cnt.endGraceful }
  | .timeout => { cnt with endTimeout := satInc cnt.endTimeout }
  | .forced => { cnt with endForced := satInc cnt.endForced }
  | .preempted => { cnt with endPreempted := satInc cnt.endPreempted }

/-- The block after an error of a class for a frame of origin `o`. -/
def countError (o : Origin) (k : ErrorClass) (b : Block) : Block :=
  b.setHalf o { b.half o with cnt := (b.half o).cnt.countError k }

/-! ### Events (rule R88) -/

/-- An event about a header of origin `o`: `A` its destination, `B` its source, its group flag. -/
def headerEvent (code : EventCode) (o : Origin) (h : HeaderIds) : Event :=
  { code := code, origin := o, grp := h.grp, a := h.dst, b := h.src }

/-- An event about the current context. -/
def contextEvent (code : EventCode) (o : Origin) (reason : Option EndReason) (ctx : Context) : Event :=
  { code := code, origin := o, reason := reason, grp := ctx.grp, a := ctx.dst, b := ctx.src }

/-- `RSSI_REPORT` (rules R88, R228). -/
def rssiEvent (o : Origin) (r : RssiStats) : Event :=
  { code := .rssiReport, origin := o, a := r.minMaxWord, b := r.avgWord, c := r.count }

/-- The events of a call end (rules R219, R228): `CALL_END`, and `RSSI_REPORT` when there are samples. -/
def endEvents (o : Origin) (reason : EndReason) (b : Block) : List Event :=
  contextEvent .callEnd o (some reason) b.ctx ::
    (if (b.half o).rssi.count = 0#32 then [] else [rssiEvent o (b.half o).rssi])

/-! ### Shared state changes -/

/-- The half after its call ended (rule R219): Idle, timer stopped, the end counted. -/
def Half.ended (h : Half) (reason : EndReason) : Half :=
  { h with st := .idle, tmo := Timer.stop, cnt := h.cnt.countEnd reason }

/-- `end_call(o, reason)` without its events, which are `endEvents` of the state before (rule R219).
The hang timer starts and the context stays. -/
def endCall (c : Cfg) (o : Origin) (reason : EndReason) (b : Block) : Block :=
  let b' := b.setHalf o ((b.half o).ended reason)
  { b' with ctx := { b'.ctx with hang := Timer.start c.hangMs } }

/-- The timeout duration of an origin (rules R180, R223). -/
def timeoutMs (c : Cfg) : Origin → Word32
  | .rf => c.rfTimeoutMs
  | .net => c.netTimeoutMs

/-- What an accepted frame does to its half (rule R223): the timer restarts when `restart`, the LC
cache is replaced when the profile carries LC (rule R225), the RSSI sample is taken (rule R226), the
frame is counted. -/
def Half.accept (c : Cfg) (o : Origin) (F : Buffer) (p : Profile) (rssi : Option (BitVec 16))
    (restart : Bool) (h : Half) : Half :=
  { h with
    tmo := if restart then Timer.start (timeoutMs c o) else h.tmo
    lcValid := if p.carriesLc then true else h.lcValid
    lc := if p.carriesLc then c.lcOf F else h.lc
    rssi := match rssi with
      | some raw => h.rssi.add (c.rssiMap raw)
      | none => h.rssi
    cnt := { h.cnt with accepted := satInc h.cnt.accepted } }

/-- `enqueue(o, F)` (rule R229): into the queue, or into the pending slot when it is full. -/
def enqueue (c : Cfg) (o : Origin) (F : Buffer) (b : Block) : Block :=
  match qPush c.queueDepth b.q ⟨o, F⟩ with
  | some q => { b with q := q }
  | none => { b with pend := { valid := true, origin := o, bytes := F } }

/-- The `BP` value of `enqueue` (rule R229): whether the queue was full. -/
def queueFull (c : Cfg) (b : Block) : Bool := decide (b.q.length = c.queueDepth)

/-- `accept` with `enq = true` and `restart = true` (rules R214, R217, R222, R223). -/
def acceptQueued (c : Cfg) (o : Origin) (F : Buffer) (p : Profile) (rssi : Option (BitVec 16))
    (b : Block) : Block :=
  enqueue c o F (b.setHalf o ((b.half o).accept c o F p rssi true))

/-- `accept` with `enq = false` and `restart = false` (rules R215, R223): the terminator. -/
def acceptUnqueued (c : Cfg) (o : Origin) (F : Buffer) (p : Profile) (rssi : Option (BitVec 16))
    (b : Block) : Block :=
  b.setHalf o ((b.half o).accept c o F p rssi false)

/-- The half of `o` in state `st`. -/
def setState (o : Origin) (st : ProtocolState) (b : Block) : Block :=
  b.setHalf o { b.half o with st := st }

/-! ### Payload and terminator frames -/

/-- A payload frame (rule R214). -/
def processPayload (c : Cfg) (o : Origin) (F : Buffer) (p : Profile) (rssi : Option (BitVec 16))
    (b : Block) : Block × Response :=
  if (b.half o).st = .idle then (countError o .seq b, rejected .dropSeq [])
  else (acceptQueued c o F p rssi (setState o .active b), accepted (queueFull c b) [])

/-- A terminator that ends its call (rule R215). -/
def terminate (c : Cfg) (o : Origin) (F : Buffer) (p : Profile) (rssi : Option (BitVec 16))
    (b : Block) : Block × Response :=
  let b' := acceptUnqueued c o F p rssi b
  (endCall c o .graceful b', accepted false (endEvents o .graceful b'))

/-- A terminator frame (rule R215). With ids, its destination must be the call's. -/
def processTerminator (c : Cfg) (o : Origin) (F : Buffer) (p : Profile) (rssi : Option (BitVec 16))
    (b : Block) : Block × Response :=
  if (b.half o).st = .idle then
    let h := b.half o
    (b.setHalf o { h with cnt := { h.cnt with ignored := satInc h.cnt.ignored } },
      rejected .ignored [])
  else if p.hasIds && !b.ctx.sameDst (c.hdrOf F).dst (c.hdrOf F).grp then
    (countError o .seq b, rejected .dropSeq [])
  else terminate c o F p rssi b

/-! ### Header frames -/

/-- `favoured(o)` (rule R221). -/
def favoured (c : Cfg) (o : Origin) : Bool :=
  match c.arbPolicy, o with
  | .rfPriority, .rf => true
  | .netPriority, .net => true
  | _, _ => false

/-- The identity lookups of a header (rule R220). -/
def idsOk (c : Cfg) (h : HeaderIds) : Bool :=
  c.ridValid h.src && (if h.grp then c.tgValid h.dst else c.ridValid h.dst)

/-- The outcome of arbitration and hang test (rule R221). -/
inductive Arbitration where
  | duplicate
  | preempt
  | reject
  | hangReject
  | clear
deriving DecidableEq, Repr

/-- The decision of rule R221 for a header of origin `o` that passed the lookups. -/
def arbitrate (c : Cfg) (o : Origin) (h : HeaderIds) (b : Block) : Arbitration :=
  if (b.half (other o)).st ≠ .idle then
    if b.ctx.sameDst h.dst h.grp then .duplicate
    else if favoured c o then .preempt
    else .reject
  else if b.ctx.valid ∧ b.ctx.hang.ts = .running ∧ o ≠ b.ctx.owner
      ∧ b.ctx.sameDst h.dst h.grp = false ∧ favoured c o = false then .hangReject
  else .clear

/-- The context of a call that opens (rule R222), its hang timer stopped. -/
def openContext (o : Origin) (h : HeaderIds) : Context :=
  { valid := true, dst := h.dst, src := h.src, grp := h.grp, owner := o, hang := Timer.stop }

/-- The block with the half and the context of a call that opens, before the header is accepted
(rule R222): the half is Receiving and its RSSI record is fresh. -/
def openHalf (o : Origin) (h : HeaderIds) (b : Block) : Block :=
  { b.setHalf o { b.half o with st := .receiving, rssi := {} } with ctx := openContext o h }

/-- `open_call` (rule R222); `events` are those emitted before. -/
def openCall (c : Cfg) (o : Origin) (F : Buffer) (p : Profile) (rssi : Option (BitVec 16))
    (h : HeaderIds) (events : List Event) (b : Block) : Block × Response :=
  (acceptQueued c o F p rssi (openHalf o h b),
    accepted (queueFull c b) (events ++ [headerEvent .callStart o h]))

/-- Admission of a header whose half is Idle (rules R220, R221), then `open_call`. -/
def admitHeader (c : Cfg) (o : Origin) (F : Buffer) (p : Profile) (rssi : Option (BitVec 16))
    (h : HeaderIds) (events : List Event) (b : Block) : Block × Response :=
  if idsOk c h then
    match arbitrate c o h b with
    | .duplicate =>
      (countError o .arbDup b, rejected .arbDuplicate (events ++ [headerEvent .arbDuplicate o h]))
    | .reject =>
      (countError o .arbReject b, rejected .arbReject (events ++ [headerEvent .arbReject o h]))
    | .hangReject =>
      (countError o .hangReject b, rejected .hangReject (events ++ [headerEvent .hangReject o h]))
    | .preempt =>
      openCall c o F p rssi h (events ++ endEvents (other o) .preempted b)
        (endCall c (other o) .preempted b)
    | .clear => openCall c o F p rssi h events b
  else (countError o .id b, rejected .dropId (events ++ [headerEvent .idReject o h]))

/-- A header for the destination of the origin's own open call (rule R217). -/
def repeatHeader (c : Cfg) (o : Origin) (F : Buffer) (p : Profile) (rssi : Option (BitVec 16))
    (h : HeaderIds) (b : Block) : Block × Response :=
  let b' := setState o .active b
  (acceptQueued c o F p rssi { b' with ctx := { b'.ctx with src := h.src } },
    accepted (queueFull c b) [])

/-- A header frame (rules R216 to R218). -/
def processHeader (c : Cfg) (o : Origin) (F : Buffer) (p : Profile) (rssi : Option (BitVec 16))
    (b : Block) : Block × Response :=
  let h := c.hdrOf F
  if (b.half o).st = .idle then admitHeader c o F p rssi h [] b
  else if b.ctx.sameDst h.dst h.grp then repeatHeader c o F p rssi h b
  else admitHeader c o F p rssi h (endEvents o .forced b) (endCall c o .forced b)

/-! ### The shared procedure -/

/-- The error class of a drop (rule R212). -/
def dropClass (status : Status) : ErrorClass :=
  if status = .dropCheck then .check else .malformed

/-- `process(o, F, rssi)` (rule R210): the backpressure gate (R211), validation (R212), then by role
(R213). -/
def process (c : Cfg) (o : Origin) (F : Buffer) (rssi : Option (BitVec 16)) (b : Block) :
    Block × Response :=
  if b.pend.valid then ({ b with cntBp := satInc b.cntBp }, rejected .backpressure [])
  else
    match validate c F with
    | .drop status _ _ => (countError o (dropClass status) b, rejected status [])
    | .valid _ _ p =>
      match p.role with
      | .payload => processPayload c o F p rssi b
      | .terminator => processTerminator c o F p rssi b
      | .header => processHeader c o F p rssi b

/-! ### The steps of `CLOCK` (rule R240) -/

/-- Step 1 (rule R241): retry the pending push. -/
def retryPending (c : Cfg) (b : Block) : Block :=
  if b.pend.valid then
    match qPush c.queueDepth b.q ⟨b.pend.origin, b.pend.bytes⟩ with
    | some q => { b with q := q, pend := { bytes := zeros c.frameLen } }
    | none => b
  else b

/-- Step 2 (rule R242): all three timers advance by the same `ms`. -/
def advanceTimers (ms : Word32) (b : Block) : Block :=
  { b with
    rf := { b.rf with tmo := b.rf.tmo.advance ms }
    net := { b.net with tmo := b.net.tmo.advance ms }
    ctx := { b.ctx with hang := b.ctx.hang.advance ms } }

/-- Steps 3 and 4 (rules R243, R244): the timeout of an origin ends its call. -/
def expireHalf (c : Cfg) (o : Origin) (b : Block) : Block × List Event :=
  if (b.half o).tmo.expired then (endCall c o .timeout b, endEvents o .timeout b) else (b, [])

/-- Step 5 (rules R37, R245): the hang timer's expiry clears the context. -/
def expireHang (b : Block) : Block × List Event :=
  if b.ctx.hang.expired then
    ({ b with ctx := {} }, [contextEvent .hangExpired b.ctx.owner none b.ctx])
  else (b, [])

/-- `CLOCK`'s steps in order, with the events in the order they are emitted (rules R240, R268). -/
def tick (c : Cfg) (ms : Word32) (b : Block) : Block × List Event :=
  let b2 := advanceTimers ms (retryPending c b)
  let r3 := expireHalf c .rf b2
  let r4 := expireHalf c .net r3.1
  let r5 := expireHang r4.1
  (r5.1, r3.2 ++ r4.2 ++ r5.2)

/-! ### The commands -/

/-- `isBusy` (rule R247). -/
def isBusy (b : Block) : Bool := decide (b.rf.st ≠ .idle ∨ b.net.st ≠ .idle)

/-- `PROCFRAME` (rule R234). -/
def doProcframe (c : Cfg) (rssi : Option (BitVec 16)) (F : Buffer) (b : Block) : Block × Response :=
  gate b (process c .rf F rssi b)

/-- `PROCNET` (rule R236): NET_EMPTY when no frame was pulled; a network frame carries no sample. -/
def doProcnet (c : Cfg) (frame : Option Buffer) (b : Block) : Block × Response :=
  gate b (match frame with
    | none => (b, rejected .netEmpty [])
    | some F => process c .net F none b)

/-- `GETFRAME` (rule R238). -/
def doGetframe (b : Block) : Block × Response :=
  gate b (match qPop b.q with
    | none => (b, { status := .ok, result := true })
    | some (e, rest) =>
      ({ b with q := rest },
        { status := .ok, result := true
          res32 := (originCode e.origin).setWidth 32, payload := e.bytes }))

/-- `CLOCK` (rule R240). -/
def doClock (c : Cfg) (ms : Word32) (b : Block) : Block × Response :=
  gate b ((tick c ms b).1, { status := .ok, result := true, events := (tick c ms b).2 })

/-- `ISBUSY` (rule R247). -/
def doIsbusy (b : Block) : Block × Response :=
  gate b (b, { status := .ok, result := isBusy b })

/-- `RESET` (rules R47, R248): every field but the fault latch and its cause. -/
def doReset (c : Cfg) (b : Block) : Block × Response :=
  gate b ({ Block.reset c with fault := b.fault, faultCause := b.faultCause },
    { status := .ok, result := true })

/-- `PROCFRAME` on the machine. -/
def execProcframe (rssi : Option (BitVec 16)) (F : Buffer) (s : State) :
    Host.Outcome State Fault Refusal := .next (s.answer (doProcframe cfg rssi F s.blk))

/-- `PROCNET` on the machine. -/
def execProcnet (frame : Option Buffer) (s : State) : Host.Outcome State Fault Refusal :=
  .next (s.answer (doProcnet cfg frame s.blk))

/-- `GETFRAME` on the machine. -/
def execGetframe (s : State) : Host.Outcome State Fault Refusal :=
  .next (s.answer (doGetframe s.blk))

/-- `CLOCK` on the machine. -/
def execClock (ms : Word32) (s : State) : Host.Outcome State Fault Refusal :=
  .next (s.answer (doClock cfg ms s.blk))

/-- `ISBUSY` on the machine. -/
def execIsbusy (s : State) : Host.Outcome State Fault Refusal :=
  .next (s.answer (doIsbusy s.blk))

/-- `RESET` on the machine. -/
def execReset (s : State) : Host.Outcome State Fault Refusal :=
  .next (s.answer (doReset cfg s.blk))

end Sys2Proof.Machine
end

