-- ==== Sys2Proof/Machine/Telemetry.lean ====
section
/-! DEFINITION. The status words (`10_state.md` rules R43 to R45) and the read-only commands `RDSTAT` and
`RDLC` (`44_control.md` rules R250, R252). -/

namespace Sys2Proof.Machine

/-- Status word `k` of a half (rule R45), `none` for an undefined one. -/
def halfWord (h : Half) (k : Byte) : Option Word32 :=
  match k with
  | 0x00#8 => some h.cnt.err
  | 0x01#8 => some h.cnt.malformed
  | 0x02#8 => some h.cnt.check
  | 0x03#8 => some h.cnt.seq
  | 0x04#8 => some h.cnt.id
  | 0x05#8 => some h.cnt.arbReject
  | 0x06#8 => some h.cnt.arbDup
  | 0x07#8 => some h.cnt.hangReject
  | 0x08#8 => some h.cnt.accepted
  | 0x09#8 => some h.cnt.endGraceful
  | 0x0A#8 => some h.cnt.endTimeout
  | 0x0B#8 => some h.cnt.endForced
  | 0x0C#8 => some h.cnt.endPreempted
  | 0x0D#8 => some h.rssi.count
  | 0x0E#8 => some h.rssi.minMaxWord
  | 0x0F#8 => some h.rssi.avgWord
  | 0x10#8 => some (flagBit h.lcValid)
  | 0x11#8 => some h.cnt.ignored
  | _ => none

/-- The global status words (rule R44), `none` for an undefined one. -/
def globalWord (b : Block) (sel : Byte) : Option Word32 :=
  match sel with
  | 0x01#8 => some ((stateCode b.rf.st).setWidth 32)
  | 0x02#8 => some ((stateCode b.net.st).setWidth 32)
  | 0x03#8 => some (flagBit b.ctx.valid ||| flagBit b.ctx.grp <<< 1
      ||| (originCode b.ctx.owner).setWidth 32 <<< 2)
  | 0x04#8 => some b.ctx.dst
  | 0x05#8 => some b.ctx.src
  | 0x06#8 => some ((timerCode b.rf.tmo.ts).setWidth 32)
  | 0x07#8 => some b.rf.tmo.rem
  | 0x08#8 => some ((timerCode b.net.tmo.ts).setWidth 32)
  | 0x09#8 => some b.net.tmo.rem
  | 0x0A#8 => some ((timerCode b.ctx.hang.ts).setWidth 32)
  | 0x0B#8 => some b.ctx.hang.rem
  | 0x0C#8 => some (BitVec.ofNat 32 b.q.length)
  | 0x0D#8 => some (flagBit b.pend.valid ||| (originCode b.pend.origin).setWidth 32 <<< 1)
  | 0x0E#8 => some b.cntBp
  | 0x0F#8 => some (flagBit (isBusy b))
  | _ => none

/-- The status word of a selector (rules R44, R45): the half words start at `0x20` for RF and at
`0x40` for NET; `none` for an undefined selector. -/
def statusWord (b : Block) (sel : Byte) : Option Word32 :=
  if sel < 0x20#8 then globalWord b sel
  else if sel < 0x40#8 then halfWord b.rf (sel - 0x20#8)
  else halfWord b.net (sel - 0x40#8)

/-- `RDSTAT` (rule R250). -/
def doRdstat (sel : Byte) (b : Block) : Block × Response :=
  gate b (match statusWord b sel with
    | some v => (b, { status := .ok, result := true, res32 := v })
    | none => (b, Response.badCmd))

/-- `RDLC` (rule R252): `RESULT` is `lc_valid`, the payload the cache. -/
def doRdlc (o : Origin) (b : Block) : Block × Response :=
  gate b (b, { status := .ok, result := (b.half o).lcValid, payload := (b.half o).lc })

/-- `RDSTAT` on the machine. -/
def execRdstat (sel : Byte) (s : State) : Host.Outcome State Fault Refusal :=
  .next (s.answer (doRdstat sel s.blk))

/-- `RDLC` on the machine. -/
def execRdlc (o : Origin) (s : State) : Host.Outcome State Fault Refusal :=
  .next (s.answer (doRdlc o s.blk))

end Sys2Proof.Machine
end

