-- ==== Sys2Proof/Machine/Command.lean ====
section
/-! DEFINITION. The transition function of `00_scope.md` rule R6, `Cfg → State → Command → State ×
Response`, over any configuration: `perform` for a command, `serve` for a packet. The machine's `exec`
is `perform` at the hardware's configuration (`Laws/Step.lean`). -/

namespace Sys2Proof.Machine

/-- One command under a configuration (rules R6, R7). -/
def perform (c : Cfg) (i : Instr) (b : Block) : Block × Response :=
  match i with
  | .chk5 e p => doChk5 e p b
  | .enc5 p => doEnc5 p b
  | .chk16a p => doChk16a p b
  | .add16a p => doAdd16a p b
  | .chk16b p => doChk16b p b
  | .add16b p => doAdd16b p b
  | .chk32 p => doChk32 c p b
  | .add32 p => doAdd32 c p b
  | .crc8 p => doCrc8 c p b
  | .crc9 p => doCrc9 c p b
  | .sync p => doSync c p b
  | .validate p => doValidate c p b
  | .procframe r p => doProcframe c r p b
  | .procnet p => doProcnet c p b
  | .getframe => doGetframe b
  | .clock ms => doClock c ms b
  | .isbusy => doIsbusy b
  | .reset => doReset c b
  | .rdstat sel => doRdstat sel b
  | .rdlc o => doRdlc o b

/-- One packet under a configuration (rule R93); `none` for a packet that is not well delimited. -/
def serve (c : Cfg) (packet : Buffer) (b : Block) : Option (Block × Response) :=
  match decode packet with
  | .ok i => some (perform c i b)
  | .error .misdelimited => none
  | .error _ => some (refuseCommand b)

end Sys2Proof.Machine
end

