-- ==== Sys2Proof/Machine/Dispatch.lean ====
section
/-! DEFINITION. One arm per command (`30_encoding.md` rule R86). -/

namespace Sys2Proof.Machine

/-- The effect of a command on the machine. -/
def exec (i : Instr) (s : State) : Host.Outcome State Fault Refusal :=
  match i with
  | .chk5 e p => Sys2Proof.Machine.execChk5 e p s
  | .enc5 p => Sys2Proof.Machine.execEnc5 p s
  | .chk16a p => Sys2Proof.Machine.execChk16a p s
  | .add16a p => Sys2Proof.Machine.execAdd16a p s
  | .chk16b p => Sys2Proof.Machine.execChk16b p s
  | .add16b p => Sys2Proof.Machine.execAdd16b p s
  | .chk32 p => Sys2Proof.Machine.execChk32 p s
  | .add32 p => Sys2Proof.Machine.execAdd32 p s
  | .crc8 p => Sys2Proof.Machine.execCrc8 p s
  | .crc9 p => Sys2Proof.Machine.execCrc9 p s
  | .sync p => Sys2Proof.Machine.execSync p s
  | .validate p => Sys2Proof.Machine.execValidate p s
  | .procframe r p => Sys2Proof.Machine.execProcframe r p s
  | .procnet p => Sys2Proof.Machine.execProcnet p s
  | .getframe => Sys2Proof.Machine.execGetframe s
  | .clock ms => Sys2Proof.Machine.execClock ms s
  | .isbusy => Sys2Proof.Machine.execIsbusy s
  | .reset => Sys2Proof.Machine.execReset s
  | .rdstat sel => Sys2Proof.Machine.execRdstat sel s
  | .rdlc o => Sys2Proof.Machine.execRdlc o s

end Sys2Proof.Machine
end

