-- ==== Sys2Proof/Machine/Step.lean ====
section
/-! DEFINITION. One step of the machine: it reads the oldest host input (`00_scope.md` rule R6,
`30_encoding.md` rule R93, `70_reset_and_hazards.md` rule R290; notes/assumptions/3.md). -/

namespace Sys2Proof.Machine

/-- One step. With no input the block waits: nothing happens between commands (rules R265, R291). -/
def step (s : State) : Host.Outcome State Fault Refusal :=
  match s.inputs with
  | [] => .next s
  | .hardwareReset :: rest => .next { blk := hardwareReset cfg s.blk, inputs := rest, resp := none }
  | .command packet :: rest =>
    match decode packet with
    | .ok i => exec i { s with inputs := rest }
    | .error .misdelimited => .refused .misdelimitedPacket
    | .error _ => .next ({ s with inputs := rest }.answer (refuseCommand s.blk))

/-- The packet of `w` presented by the host ahead of every other input. -/
def State.withFetchWord (s : State) (nbits w : Nat) : State :=
  { s with inputs := .command (tablePacket nbits w) :: s.inputs }

end Sys2Proof.Machine
end

