-- ==== Sys2Proof/Safety.lean ====
section
/-! DEFINITION. What counts as a good state and a good response: the invariants of `10_state.md` rules
R24, R28, R30, R31, R35, R37, R38 and `44_control.md` rule R231, and the shape of responses of
`30_encoding.md` rules R83 to R85. -/

namespace Sys2Proof.Machine

/-- A timer that is not running shows 0 (rule R182), and a running one never shows more than its
duration (rules R181, R183). -/
def Timer.Within (T : Word32) (t : Timer) : Prop :=
  (t.ts ≠ .running → t.rem = 0#32) ∧ t.rem ≤ T

/-- The RSSI record is zero before the first sample of a call, and its sum lies between `count` times
the least and `count` times the greatest sample, so that it never overflows 48 bits (rules R31, R226). -/
def RssiStats.Bounded (r : RssiStats) : Prop :=
  (r.count = 0#32 → r = {}) ∧
  (r.min.toInt * r.count.toNat ≤ r.sum.toInt ∧ r.sum.toInt ≤ r.max.toInt * r.count.toNat)

/-- What holds of the half of origin `o` at every command boundary. -/
structure Half.Invariant (c : Cfg) (o : Origin) (h : Half) : Prop where
  /-- No rule writes `Ending` (rule R27). -/
  not_ending : h.st ≠ .ending
  /-- The timeout timer runs exactly while a call is open, and is never expired (rule R30). -/
  timer : h.tmo.ts = if h.st = .idle then .stopped else .running
  timer_within : h.tmo.Within (timeoutMs c o)
  /-- The cache has `LC_LEN` bytes, all zero until a decode (rules R26, R32, R252). -/
  lc_length : h.lc.length = c.lcLen
  lc_unset : h.lcValid = false → h.lc = zeros c.lcLen
  rssi : h.rssi.Bounded

/-- What holds of the block at every command boundary. -/
structure Block.Invariant (c : Cfg) (b : Block) : Prop where
  /-- The latch and its cause agree (rules R24, R262). -/
  latch : b.faultCause = if b.fault then codecShort else 0#8
  halves : ∀ o, (b.half o).Invariant c o
  /-- At most one half is not Idle (rule R28). -/
  one_owner : b.rf.st = .idle ∨ b.net.st = .idle
  /-- The open call is the context's (rule R35). -/
  owner_context : ∀ o, (b.half o).st ≠ .idle → b.ctx.valid = true ∧ b.ctx.owner = o
  /-- The hang timer runs exactly while the context is valid and no call is open (rule R30). -/
  hang : b.ctx.hang.ts =
    if b.ctx.valid = true ∧ b.rf.st = .idle ∧ b.net.st = .idle then .running else .stopped
  hang_within : b.ctx.hang.Within c.hangMs
  /-- A context that is not valid is clear (rule R37). -/
  context_clear : b.ctx.valid = false → b.ctx = {}
  /-- Ids have `ID_W` bits (rules R9, R34). -/
  ids : b.ctx.dst.toNat < 2 ^ c.idW ∧ b.ctx.src.toNat < 2 ^ c.idW
  /-- The network half never holds a sample (rule R31). -/
  net_rssi : b.net.rssi.count = 0#32
  /-- The queue is bounded and holds whole frames (rules R38, R173). -/
  queue_bound : b.q.length ≤ c.queueDepth
  queue_frames : ∀ e ∈ b.q, e.bytes.length = c.frameLen
  pend_frame : b.pend.bytes.length = c.frameLen
  /-- An empty pending slot shows its reset value (rules R40, R241). -/
  pend_clear : b.pend.valid = false → b.pend = { bytes := zeros c.frameLen }

/-- A good state of the machine. -/
def State.Invariant (s : State) : Prop := s.blk.Invariant cfg

/-- What rules R83 to R85 say of every response: the lengths fit their fields, at most three events,
`RESULT` is 0 unless the status is `0x00`, and `BP` comes only with an accepted frame. -/
structure Response.WellShaped (r : Response) : Prop where
  payload_fits : r.payload.length ≤ 65535
  events_fit : r.events.length ≤ 3
  result_ok : r.result = true → r.status = .ok
  bp_accepted : r.bp = true → r.status = .ok ∧ r.result = true

/-- The frames the block has accepted for delivery and not yet delivered, next first: the queue, then
the pending frame (rule R41). -/
def Block.undelivered (b : Block) : List QEntry :=
  b.q ++ if b.pend.valid then [⟨b.pend.origin, b.pend.bytes⟩] else []

/-- The command that presents a frame of origin `o` (rules R234, R236). -/
def offer (o : Origin) (rssi : Option (BitVec 16)) (F : Buffer) : Instr :=
  match o with
  | .rf => .procframe rssi F
  | .net => .procnet (some F)

/-- The sample such a command carries: none on the network path (rule R236). -/
def sampleOf (o : Origin) (rssi : Option (BitVec 16)) : Option (BitVec 16) :=
  match o with
  | .rf => rssi
  | .net => none

/-- Command `i`, under configuration `c`, takes the machine from `s` to `t`; and if `c` is the
hardware's configuration, so does `exec`. Statements that say what a frame of some kind does are made
about every configuration, because whether a frame of that kind exists depends on it. -/
def Runs (c : Cfg) (i : Instr) (s t : State) : Prop :=
  t = s.answer (perform c i s.blk) ∧ (c = cfg → exec i s = .next t)

end Sys2Proof.Machine
end

