-- ==== Sys2Proof/Certificates/Slice0/Obligations.lean ====
section
/-! DEFINITION. The statements for the provers, and the tables of the spec they are stated with. A
statement about `exec` is about the machine at the hardware's configuration, whose open parameters no
proof can see; where a statement needs a frame of some kind to exist, it is made for every well-formed
configuration `c` through `Runs`, which says the same of `exec` when `c` is the hardware's. -/

namespace Sys2Proof.Spec

open Sys2Proof.Machine

/-- The minimum payload length of the codec commands (rule R120). -/
def codecMinimum : Instr → Option Nat
  | .chk5 _ _ => some 9
  | .enc5 _ => some 9
  | .chk16a _ => some 3
  | .add16a _ => some 3
  | .chk16b _ => some 3
  | .add16b _ => some 3
  | .chk32 _ => some 5
  | .add32 _ => some 5
  | .crc8 _ => some 1
  | .crc9 _ => some 1
  | _ => none

/-- The commands that read only their payload: codec, sync, validator (rules R23, R67). -/
def readsPayloadOnly : Instr → Bool
  | .sync _ => true
  | .validate _ => true
  | i => (codecMinimum i).isSome

/-- The command packet with these fields (rule R81). -/
def packetOf (op arg8 : Byte) (arg32 : Word32) (payload : Buffer) : Buffer :=
  [op, arg8] ++ be16 (BitVec.ofNat 16 payload.length) ++ be32 arg32 ++ payload

/-- The operand table of rule R82; false for the reserved opcodes of rule R91. -/
def operandsAllowed (op arg8 : Byte) (arg32 : Word32) (payload : Buffer) : Bool :=
  if op = 0x01#8 then decide (arg32 = 0#32)
  else if op ∈ [0x02#8, 0x03#8, 0x04#8, 0x05#8, 0x06#8, 0x07#8, 0x08#8, 0x09#8, 0x0A#8, 0x10#8, 0x11#8]
  then decide (arg8 = 0#8 ∧ arg32 = 0#32)
  else if op = 0x20#8
  then decide (arg8.toNat < 2 ∧ arg32.toNat < 2 ^ 16 ∧ (arg8 = 0#8 → arg32 = 0#32))
  else if op = 0x21#8
  then decide (arg8.toNat < 2 ∧ arg32 = 0#32 ∧ (arg8 = 0#8 → payload = []))
  else if op ∈ [0x22#8, 0x24#8, 0x25#8] then decide (arg8 = 0#8 ∧ arg32 = 0#32 ∧ payload = [])
  else if op = 0x23#8 then decide (arg8 = 0#8 ∧ payload = [])
  else if op = 0x26#8 then decide (arg32 = 0#32 ∧ payload = [])
  else if op = 0x27#8 then decide (arg8.toNat < 2 ∧ arg32 = 0#32 ∧ payload = [])
  else false

/-- The command of an opcode, with the operands rule R82 reads from its fields (rule R86). -/
def commandOf (op arg8 : Byte) (arg32 : Word32) (payload : Buffer) : Option Instr :=
  [(0x01#8, Instr.chk5 arg8 payload), (0x02#8, .enc5 payload), (0x03#8, .chk16a payload),
    (0x04#8, .add16a payload), (0x05#8, .chk16b payload), (0x06#8, .add16b payload),
    (0x07#8, .chk32 payload), (0x08#8, .add32 payload), (0x09#8, .crc8 payload),
    (0x0A#8, .crc9 payload), (0x10#8, .sync payload), (0x11#8, .validate payload),
    (0x20#8, .procframe (if arg8 = 0#8 then none else some (arg32.setWidth 16)) payload),
    (0x21#8, .procnet (if arg8 = 0#8 then none else some payload)), (0x22#8, .getframe),
    (0x23#8, .clock arg32), (0x24#8, .isbusy), (0x25#8, .reset), (0x26#8, .rdstat arg8),
    (0x27#8, .rdlc (if arg8 = 0#8 then .rf else .net))].lookup op

/-- The status codes of rule R85. -/
def statusByte : Status → Byte
  | .ok => 0x00 | .dropLength => 0x01 | .dropSync => 0x02 | .dropType => 0x03
  | .dropCheck => 0x04 | .dropSeq => 0x05 | .dropId => 0x06 | .arbReject => 0x07
  | .arbDuplicate => 0x08 | .hangReject => 0x09 | .ignored => 0x0A | .backpressure => 0x0B
  | .netEmpty => 0x0C | .badCmd => 0xFD | .faultNow => 0xFE | .faulted => 0xFF

/-- The event codes of rule R88. -/
def eventByte : EventCode → Byte
  | .callStart => 0x01 | .callEnd => 0x02 | .rssiReport => 0x03 | .arbReject => 0x04
  | .arbDuplicate => 0x05 | .hangReject => 0x06 | .idReject => 0x07 | .hangExpired => 0x08

/-- The reason codes of rule R89; 0 where there is no reason (rule R87). -/
def reasonByte : Option EndReason → Byte
  | none => 0x00 | some .graceful => 0x01 | some .timeout => 0x02 | some .forced => 0x03
  | some .preempted => 0x04

/-- The origin codes of rule R90. -/
def originByte : Origin → Byte
  | .rf => 0x00 | .net => 0x01

/-- The `SyncKind` codes of rule R90: bit 0 content, bits 2:1 source. -/
def kindWord : SyncKind → Word32
  | ⟨.voice, .bs⟩ => 0 | ⟨.data, .bs⟩ => 1 | ⟨.voice, .ms⟩ => 2 | ⟨.data, .ms⟩ => 3
  | ⟨.voice, .direct1⟩ => 4 | ⟨.data, .direct1⟩ => 5 | ⟨.voice, .direct2⟩ => 6
  | ⟨.data, .direct2⟩ => 7

/-- The `Role` codes of rule R90. -/
def roleWord : Role → Word32
  | .header => 0 | .payload => 1 | .terminator => 2

/-- The defined selectors of `RDSTAT` (rules R44, R45). -/
def selectorDefined (sel : Byte) : Bool :=
  decide (0x01#8 ≤ sel ∧ sel ≤ 0x0F#8 ∨ 0x20#8 ≤ sel ∧ sel ≤ 0x31#8 ∨ 0x40#8 ≤ sel ∧ sel ≤ 0x51#8)

/-- `crc_run` by table look-up (rule R14, third line). -/
def tableRun {W : Nat} (P init : BitVec W) (B : Buffer) : BitVec W :=
  B.foldl (fun c b => crcTable P ((c >>> (W - 8)).setWidth 8 ^^^ b) ^^^ (c <<< 8)) init

/-- `B` with bit `i` of its bit stream flipped (rules R12, R62). -/
def flipBit (B : Buffer) (i : Nat) : Buffer := B.modify (i / 8) (· ^^^ (0x80#8 >>> (i % 8)))

/-- The `RESULT` flag of the response in the next state, if there is one. -/
def resultOf : Host.Outcome State Fault Refusal → Option Bool
  | .next t => t.resp.map Response.result
  | .fault _ => none
  | .refused _ => none

/-- Command `i`, under configuration `c`, leaves the block as it is and answers this `RESULT`. -/
def checksTo (c : Cfg) (i : Instr) (s : State) (result : Bool) : Prop :=
  ∃ t, Runs c i s t ∧ t.blk = s.blk ∧ t.resp.map Response.result = some result

/-- `sat_32(v + 1)` in arithmetic (rules R11, R33). -/
def saturated (v : Word32) : Word32 := BitVec.ofNat 32 (min (v.toNat + 1) (2 ^ 32 - 1))

/-- Rule R226 on an optional sample. -/
def sampled (c : Cfg) (rssi : Option (BitVec 16)) (r : RssiStats) : RssiStats :=
  match rssi with
  | none => r
  | some raw => r.add (c.rssiMap raw)

/-- Rule R223 with `enq` and `restart`, and the new call state: the half of `o` after frame `F`, of
profile `p`, is accepted. -/
def heldHalf (c : Cfg) (o : Origin) (F : Buffer) (p : Profile) (rssi : Option (BitVec 16))
    (st : ProtocolState) (h : Half) : Half :=
  { st := st
    tmo := ⟨.running, match o with | .rf => c.rfTimeoutMs | .net => c.netTimeoutMs⟩
    lcValid := h.lcValid || p.carriesLc
    lc := if p.carriesLc then c.lcOf F else h.lc
    rssi := sampled c rssi h.rssi
    cnt := { h.cnt with accepted := saturated h.cnt.accepted } }

/-- Rule R229: frame `F` of origin `o` goes to the queue's tail, or to the pending slot when the queue
is full. -/
def delivered (c : Cfg) (o : Origin) (F : Buffer) (b : Block) : Block :=
  if b.q.length = c.queueDepth then { b with pend := ⟨true, o, F⟩ }
  else { b with q := b.q ++ [⟨o, F⟩] }

/-- The events of a call end (rules R88, R219, R228). -/
def callEndEvents (o : Origin) (reason : EndReason) (ctx : Context) (r : RssiStats) : List Event :=
  ⟨.callEnd, o, some reason, ctx.grp, ctx.dst, ctx.src, 0#32⟩ ::
    if r.count = 0#32 then []
    else [⟨.rssiReport, o, none, false, r.min ++ r.max,
      BitVec.ofInt 32 (r.sum.toInt.tdiv r.count.toNat), r.count⟩]

/-- A half after its call ended (rule R219): Idle, timer stopped, the reason counted. -/
def endedHalf (reason : EndReason) (h : Half) : Half :=
  { h with
    st := .idle
    tmo := ⟨.stopped, 0#32⟩
    cnt := match reason with
      | .graceful => { h.cnt with endGraceful := saturated h.cnt.endGraceful }
      | .timeout => { h.cnt with endTimeout := saturated h.cnt.endTimeout }
      | .forced => { h.cnt with endForced := saturated h.cnt.endForced }
      | .preempted => { h.cnt with endPreempted := saturated h.cnt.endPreempted } }

/-- The block after `end_call` (rule R219): the half ended, the hang timer started, all else kept. -/
def endedBlock (c : Cfg) (o : Origin) (reason : EndReason) (b : Block) : Block :=
  { b.setHalf o (endedHalf reason (b.half o)) with
    ctx := { b.ctx with hang := ⟨.running, c.hangMs⟩ } }

/-- The block after `open_call` accepted its header (rules R222, R223). -/
def openedBlock (c : Cfg) (o : Origin) (F : Buffer) (p : Profile) (rssi : Option (BitVec 16))
    (h : HeaderIds) (b : Block) : Block :=
  delivered c o F
    { b.setHalf o (heldHalf c o F p rssi .receiving { b.half o with rssi := ⟨0, 0, 0, 0⟩ }) with
      ctx := ⟨true, h.dst, h.src, h.grp, o, ⟨.stopped, 0#32⟩⟩ }

/-- The event of a header (rule R88). -/
def headerRecord (code : EventCode) (o : Origin) (h : HeaderIds) : Event :=
  ⟨code, o, none, h.grp, h.dst, h.src, 0#32⟩

/-- The lookups of rule R220. -/
def lookupsAdmit (c : Cfg) (h : HeaderIds) : Prop :=
  c.ridValid h.src = true ∧ (h.grp = true → c.tgValid h.dst = true)
    ∧ (h.grp = false → c.ridValid h.dst = true)

/-- The context's destination is this one (rule R36). -/
def sameDestination (ctx : Context) (h : HeaderIds) : Prop :=
  ctx.valid = true ∧ ctx.dst = h.dst ∧ ctx.grp = h.grp

/-- The favoured origin (rule R221). -/
def isFavoured (c : Cfg) (o : Origin) : Prop :=
  c.arbPolicy = .rfPriority ∧ o = .rf ∨ c.arbPolicy = .netPriority ∧ o = .net

/-- The hang timer refuses a header of `o` (rule R221). -/
def hangRefuses (c : Cfg) (o : Origin) (h : HeaderIds) (ctx : Context) : Prop :=
  ctx.valid = true ∧ ctx.hang.ts = .running ∧ o ≠ ctx.owner ∧ ¬ sameDestination ctx h
    ∧ ¬ isFavoured c o

/-- The block ready to examine a frame: not faulted, no frame pending (rules R93, R211). -/
def examines (b : Block) : Prop := b.fault = false ∧ b.pend.valid = false

/-- The block with one error class of origin `o` counted, and `err` with it (rule R33). -/
def errorCounted (o : Origin) (f : Counters → Counters) (b : Block) : Block :=
  b.setHalf o { b.half o with
    cnt := { f (b.half o).cnt with err := saturated (b.half o).cnt.err } }

/-- The status words of rules R44 and R45: every defined selector with its value. -/
def statusTable (b : Block) : List (Byte × Word32) :=
  let bit : Bool → Nat := fun f => if f then 1 else 0
  let origin : Origin → Nat := fun o => match o with | .rf => 0 | .net => 1
  let state : ProtocolState → Nat := fun st =>
    match st with | .idle => 0 | .receiving => 1 | .active => 2 | .ending => 3
  let timer : TimerState → Nat := fun ts =>
    match ts with | .stopped => 0 | .running => 1 | .expired => 2
  let word : Nat → Word32 := BitVec.ofNat 32
  let half : Byte → Half → List (Byte × Word32) := fun base h =>
    [(base + 0x00#8, h.cnt.err), (base + 0x01#8, h.cnt.malformed), (base + 0x02#8, h.cnt.check),
      (base + 0x03#8, h.cnt.seq), (base + 0x04#8, h.cnt.id), (base + 0x05#8, h.cnt.arbReject),
      (base + 0x06#8, h.cnt.arbDup), (base + 0x07#8, h.cnt.hangReject),
      (base + 0x08#8, h.cnt.accepted), (base + 0x09#8, h.cnt.endGraceful),
      (base + 0x0A#8, h.cnt.endTimeout), (base + 0x0B#8, h.cnt.endForced),
      (base + 0x0C#8, h.cnt.endPreempted), (base + 0x0D#8, h.rssi.count),
      (base + 0x0E#8, h.rssi.min ++ h.rssi.max),
      (base + 0x0F#8, if h.rssi.count = 0#32 then 0#32
        else BitVec.ofInt 32 (h.rssi.sum.toInt.tdiv h.rssi.count.toNat)),
      (base + 0x10#8, word (bit h.lcValid)), (base + 0x11#8, h.cnt.ignored)]
  [(0x01#8, word (state b.rf.st)), (0x02#8, word (state b.net.st)),
    (0x03#8, word (bit b.ctx.valid + 2 * bit b.ctx.grp + 4 * origin b.ctx.owner)),
    (0x04#8, b.ctx.dst), (0x05#8, b.ctx.src), (0x06#8, word (timer b.rf.tmo.ts)),
    (0x07#8, b.rf.tmo.rem), (0x08#8, word (timer b.net.tmo.ts)), (0x09#8, b.net.tmo.rem),
    (0x0A#8, word (timer b.ctx.hang.ts)), (0x0B#8, b.ctx.hang.rem), (0x0C#8, word b.q.length),
    (0x0D#8, word (bit b.pend.valid + 2 * origin b.pend.origin)), (0x0E#8, b.cntBp),
    (0x0F#8, word (if b.rf.st = .idle ∧ b.net.st = .idle then 0 else 1))]
    ++ half 0x20#8 b.rf ++ half 0x40#8 b.net

/-- Rule R241: the pending frame goes to the queue's tail if there is room. -/
def retried (c : Cfg) (b : Block) : Block :=
  if b.pend.valid = true ∧ b.q.length ≠ c.queueDepth
  then { b with
    q := b.q ++ [⟨b.pend.origin, b.pend.bytes⟩]
    pend := ⟨false, .rf, List.replicate c.frameLen 0x00#8⟩ }
  else b

/-- A timer `ms` milliseconds later, if it does not expire (rule R183). -/
def later (ms : Word32) (t : Timer) : Timer :=
  if t.ts = .running then ⟨.running, t.rem - ms⟩ else t

/-- The timer neither expires within `ms` milliseconds nor has expired (rule R183). -/
def outlasts (ms : Word32) (t : Timer) : Prop :=
  t.ts = .stopped ∨ t.ts = .running ∧ ms.toNat < t.rem.toNat

/-- The timer expires within `ms` milliseconds (rule R183). -/
def expiresWithin (ms : Word32) (t : Timer) : Prop := t.ts = .running ∧ t.rem.toNat ≤ ms.toNat

end Sys2Proof.Spec

open Sys2Proof Sys2Proof.Machine Sys2Proof.Spec

/-! ### Encoding and decoding -/

/-- Rules R80 to R82, R86: no bit of a command is lost by encoding it and decoding the packet. -/
def Obligations.DecodeEncodeRoundTrip : Prop :=
  ∀ i : Instr, i.wellFormed = true → decode (encode i) = .ok i

/-- Rules R80 to R82, R86: a packet that decodes is the one packet of its command. -/
def Obligations.EncodeDecodeRoundTrip : Prop :=
  ∀ (p : Buffer) (i : Instr), decode p = .ok i → i.wellFormed = true ∧ encode i = p

/-- Rules R82, R86 and R91: a well-delimited packet decodes exactly when its opcode is defined and its
operands obey the table, and then to the command of its opcode, which has the packet's fields. -/
def Obligations.OperandTableDecidesDecoding : Prop :=
  ∀ (op arg8 : Byte) (arg32 : Word32) (payload : Buffer), payload.length ≤ 65535 →
    if operandsAllowed op arg8 arg32 payload then
      ∃ i : Instr, commandOf op arg8 arg32 payload = some i
        ∧ decode (packetOf op arg8 arg32 payload) = .ok i ∧ i.opcode = op ∧ i.arg8 = arg8
        ∧ i.arg32 = arg32 ∧ i.payload = payload
    else ∃ e, e ≠ .misdelimited ∧ decode (packetOf op arg8 arg32 payload) = .error e

/-- Packets of all twenty opcodes of rule R86, written out byte by byte from rule R81, decode to the
commands they stand for. -/
def Obligations.VectorPacketsDecode : Prop :=
  decode [0x01, 0x05, 0x00, 0x09, 0x00, 0x00, 0x00, 0x00, 0xA5, 0x5F, 0x01, 0x02, 0x03, 0x04,
    0x05, 0x06, 0x07] = .ok (.chk5 5 [0xA5, 0x5F, 0x01, 0x02, 0x03, 0x04, 0x05, 0x06, 0x07]) ∧
  decode [0x02, 0x00, 0x00, 0x09, 0x00, 0x00, 0x00, 0x00, 0xA5, 0x5F, 0x01, 0x02, 0x03, 0x04,
    0x05, 0x06, 0x07] = .ok (.enc5 [0xA5, 0x5F, 0x01, 0x02, 0x03, 0x04, 0x05, 0x06, 0x07]) ∧
  decode [0x03, 0x00, 0x00, 0x03, 0x00, 0x00, 0x00, 0x00, 0xA5, 0x5F, 0x01] = .ok (.chk16a [0xA5,
    0x5F, 0x01]) ∧
  decode [0x04, 0x00, 0x00, 0x03, 0x00, 0x00, 0x00, 0x00, 0xA5, 0x5F, 0x01] = .ok (.add16a [0xA5,
    0x5F, 0x01]) ∧
  decode [0x05, 0x00, 0x00, 0x03, 0x00, 0x00, 0x00, 0x00, 0xA5, 0x5F, 0x01] = .ok (.chk16b [0xA5,
    0x5F, 0x01]) ∧
  decode [0x06, 0x00, 0x00, 0x03, 0x00, 0x00, 0x00, 0x00, 0xA5, 0x5F, 0x01] = .ok (.add16b [0xA5,
    0x5F, 0x01]) ∧
  decode [0x07, 0x00, 0x00, 0x05, 0x00, 0x00, 0x00, 0x00, 0xA5, 0x5F, 0x01, 0x02, 0x03] = .ok
    (.chk32 [0xA5, 0x5F, 0x01, 0x02, 0x03]) ∧
  decode [0x08, 0x00, 0x00, 0x05, 0x00, 0x00, 0x00, 0x00, 0xA5, 0x5F, 0x01, 0x02, 0x03] = .ok
    (.add32 [0xA5, 0x5F, 0x01, 0x02, 0x03]) ∧
  decode [0x09, 0x00, 0x00, 0x01, 0x00, 0x00, 0x00, 0x00, 0xA5] = .ok (.crc8 [0xA5]) ∧
  decode [0x0A, 0x00, 0x00, 0x01, 0x00, 0x00, 0x00, 0x00, 0xA5] = .ok (.crc9 [0xA5]) ∧
  decode [0x10, 0x00, 0x00, 0x02, 0x00, 0x00, 0x00, 0x00, 0xA5, 0x5F] = .ok (.sync [0xA5, 0x5F]) ∧
  decode [0x11, 0x00, 0x00, 0x00, 0x00, 0x00, 0x00, 0x00] = .ok (.validate []) ∧
  decode [0x20, 0x01, 0x00, 0x01, 0x00, 0x00, 0x7F, 0xFF, 0xA5] = .ok (.procframe (some 0x7FFF)
    [0xA5]) ∧
  decode [0x20, 0x00, 0x00, 0x01, 0x00, 0x00, 0x00, 0x00, 0xA5] = .ok (.procframe none [0xA5]) ∧
  decode [0x21, 0x00, 0x00, 0x00, 0x00, 0x00, 0x00, 0x00] = .ok (.procnet none) ∧
  decode [0x21, 0x01, 0x00, 0x01, 0x00, 0x00, 0x00, 0x00, 0xA5] = .ok (.procnet (some [0xA5])) ∧
  decode [0x22, 0x00, 0x00, 0x00, 0x00, 0x00, 0x00, 0x00] = .ok (.getframe) ∧
  decode [0x23, 0x00, 0x00, 0x00, 0x00, 0x00, 0x03, 0xE8] = .ok (.clock 1000) ∧
  decode [0x24, 0x00, 0x00, 0x00, 0x00, 0x00, 0x00, 0x00] = .ok (.isbusy) ∧
  decode [0x25, 0x00, 0x00, 0x00, 0x00, 0x00, 0x00, 0x00] = .ok (.reset) ∧
  decode [0x26, 0x21, 0x00, 0x00, 0x00, 0x00, 0x00, 0x00] = .ok (.rdstat 0x21) ∧
  decode [0x27, 0x00, 0x00, 0x00, 0x00, 0x00, 0x00, 0x00] = .ok (.rdlc .rf) ∧
  decode [0x27, 0x01, 0x00, 0x00, 0x00, 0x00, 0x00, 0x00] = .ok (.rdlc .net)

/-- Rules R87 to R90: an event record is sixteen bytes, fields at their offsets with their literal
codes, most significant byte first. -/
def Obligations.EventRecordLayout : Prop :=
  ∀ e : Event, e.record.length = 16 ∧ e.record.getD 0 0 = eventByte e.code
    ∧ e.record.getD 1 0 = originByte e.origin ∧ e.record.getD 2 0 = reasonByte e.reason
    ∧ e.record.getD 3 0 = (if e.grp then 1#8 else 0#8)
    ∧ e.record.getD 4 0 ++ e.record.getD 5 0 ++ e.record.getD 6 0 ++ e.record.getD 7 0 = e.a
    ∧ e.record.getD 8 0 ++ e.record.getD 9 0 ++ e.record.getD 10 0 ++ e.record.getD 11 0 = e.b
    ∧ e.record.getD 12 0 ++ e.record.getD 13 0 ++ e.record.getD 14 0 ++ e.record.getD 15 0 = e.c

/-- Rules R83 to R85: the bytes of a response packet stand at their offsets, the status by its literal
code. -/
def Obligations.ResponsePacketLayout : Prop :=
  ∀ r : Response, r.WellShaped →
    let n := r.payload.length
    r.packet.length = 9 + n + 16 * r.events.length
    ∧ r.packet.getD 0 0 = statusByte r.status
    ∧ (∀ k < 8, (r.packet.getD 1 0).getLsbD k
        = if k = 0 then r.result else if k = 1 then r.bp else false)
    ∧ (r.packet.getD 2 0 ++ r.packet.getD 3 0).toNat = n
    ∧ r.packet.getD 4 0 ++ r.packet.getD 5 0 ++ r.packet.getD 6 0 ++ r.packet.getD 7 0 = r.res32
    ∧ slice r.packet 8 n = r.payload
    ∧ (r.packet.getD (8 + n) 0).toNat = r.events.length
    ∧ ∀ k e, r.events[k]? = some e → slice r.packet (9 + n + 16 * k) 16 = e.record

/-! ### The step -/

/-- Rules R6 and R93: when the packet at the head of the host's inputs decodes to a well-formed
command, the step takes the packet and is `exec` of that command. -/
def Obligations.StepRunsDecodedCommand : Prop :=
  ∀ (s : State) (packet : Buffer) (rest : List HostInput) (i : Instr),
    s.inputs = .command packet :: rest → decode packet = .ok i → i.wellFormed = true →
    step s = exec i { s with inputs := rest }

/-- Rules R6 and R7: `exec` is the transition function at the hardware's configuration, and it answers
a next state for every command in every state. -/
def Obligations.ExecIsTransitionAtHardwareConfiguration : Prop :=
  ∀ (i : Instr) (s : State), exec i s = .next (s.answer (perform cfg i s.blk))

/-- Rules R7, R10, R141, R151: the hardware's configuration is well formed and has the two values the
spec gives. (`INIT9 = 0x00` is the default of rule R9, notes/assumptions/2.md.) -/
def Obligations.HardwareConfigurationWellFormed : Prop :=
  cfg.WellFormed ∧ cfg.crc32LsbFirst = true ∧ cfg.init9 = 0x00#8

/-- Rules R93, R265, R290, and notes/assumptions/3.md, 5.md, 6.md: a step stops only on a packet that is
not well delimited; with no input it changes nothing; it takes every input it does not stop on. -/
def Obligations.StepsStopOnlyOnMisdelimitedPackets : Prop :=
  ∀ s : State,
    (s.inputs = [] → step s = .next s) ∧
    (∀ rest, s.inputs = .hardwareReset :: rest → ∃ t, step s = .next t ∧ t.inputs = rest) ∧
    (∀ packet rest, s.inputs = .command packet :: rest →
      ((∀ op arg8 arg32 payload, payload.length ≤ 65535 → packet ≠ packetOf op arg8 arg32 payload) →
        step s = .refused .misdelimitedPacket) ∧
      ((∃ op arg8 arg32 payload, payload.length ≤ 65535 ∧ packet = packetOf op arg8 arg32 payload) →
        ∃ t, step s = .next t ∧ t.inputs = rest))

/-- Rule R70: a stream of well-formed commands, each presented as its packet, leaves the block in the
left fold of the transition function over the stream. -/
def Obligations.CommandStreamIsLeftFold : Prop :=
  ∀ (is : List Instr) (s : State) (rest : List HostInput), (∀ i ∈ is, i.wellFormed = true) →
    s.inputs = is.map (fun i => .command (encode i)) ++ rest →
    ∃ t : State, Host.Core.run core is.length s = .next t ∧ t.inputs = rest
      ∧ t.blk = is.foldl (fun b i => (perform cfg i b).1) s.blk

/-! ### Reset -/

/-- Rules R46 and R290: hardware reset, at any time, gives every field of `S` the value rule R46 lists,
and those are the values the machine starts with. -/
def Obligations.HardwareResetGivesResetValues : Prop :=
  (∀ (s : State) (rest : List HostInput), s.inputs = .hardwareReset :: rest →
    ∃ t, step s = .next t ∧ t.blk = State.reset.blk) ∧
  State.reset.blk.fault = false ∧ State.reset.blk.faultCause = 0#8 ∧
  (∀ o, State.reset.blk.half o =
    { st := .idle, tmo := ⟨.stopped, 0⟩, lcValid := false, lc := List.replicate cfg.lcLen 0x00#8
      rssi := ⟨0, 0, 0, 0⟩, cnt := ⟨0, 0, 0, 0, 0, 0, 0, 0, 0, 0, 0, 0, 0, 0⟩ }) ∧
  State.reset.blk.ctx = ⟨false, 0, 0, false, .rf, ⟨.stopped, 0⟩⟩ ∧
  State.reset.blk.q = [] ∧
  State.reset.blk.pend = ⟨false, .rf, List.replicate cfg.frameLen 0x00#8⟩ ∧
  State.reset.blk.cntBp = 0

/-- Rules R47 and R248: `RESET` produces the reset values for every field of `S` but the fault latch and
its cause, and emits no event; a faulted block refuses it. -/
def Obligations.ResetCommandRestoresState : Prop :=
  ∀ s : State,
    (s.blk.fault = false → exec .reset s = .next { s with
      blk := { State.reset.blk with fault := s.blk.fault, faultCause := s.blk.faultCause }
      resp := some { status := .ok, result := true, res32 := 0, payload := [], events := [] } }) ∧
    (s.blk.fault = true → exec .reset s = .next { s with
      resp := some { status := .faulted, res32 := s.blk.faultCause.setWidth 32 } })

/-! ### Refused commands and the fatal fault -/

/-- Rules R91 and R92: a packet with a reserved opcode, or whose operands break rule R82, or an `RDSTAT`
with an undefined selector, is answered BADCMD, or FAULTED by a faulted block, and changes nothing. -/
def Obligations.RefusedCommandsChangeNothing : Prop :=
  ∀ (s : State) (rest : List HostInput) (op arg8 : Byte) (arg32 : Word32) (payload : Buffer),
    payload.length ≤ 65535 →
    s.inputs = .command (packetOf op arg8 arg32 payload) :: rest →
    (operandsAllowed op arg8 arg32 payload = false ∨ op = 0x26#8 ∧ selectorDefined arg8 = false) →
    step s = .next { s with
      inputs := rest
      resp := some (if s.blk.fault
        then { status := .faulted, res32 := s.blk.faultCause.setWidth 32 }
        else { status := .badCmd, result := false, bp := false, res32 := 0, payload := []
               events := [] }) }

/-- Rule R263: while the fault is latched every command, and every packet whatever its opcode, is
answered FAULTED with the cause in `RES32`, and changes nothing; only hardware reset leaves the
condition. -/
def Obligations.FaultedBlockAnswersFaulted : Prop :=
  ∀ s : State, s.blk.fault = true →
    (∀ i, exec i s = .next { s with
      resp := some { status := .faulted, result := false, bp := false
                     res32 := s.blk.faultCause.setWidth 32, payload := [], events := [] } }) ∧
    (∀ op arg8 arg32 payload rest, payload.length ≤ 65535 →
      s.inputs = .command (packetOf op arg8 arg32 payload) :: rest →
      step s = .next { s with
        inputs := rest
        resp := some { status := .faulted, res32 := s.blk.faultCause.setWidth 32 } }) ∧
    (∀ t, step s = .next t → t.blk.fault = false → ∃ rest, s.inputs = .hardwareReset :: rest)

/-- Rules R120 and R262: a codec command with a payload below its minimum sets the latch with cause
CODEC_SHORT, answers FAULT_NOW, and changes nothing else; no other command sets the latch. -/
def Obligations.ShortCodecPayloadRaisesFatal : Prop :=
  ∀ (i : Instr) (s : State), s.blk.fault = false →
    (∀ m, codecMinimum i = some m → i.payload.length < m →
      exec i s = .next { s with
        blk := { s.blk with fault := true, faultCause := 0x01#8 }
        resp := some { status := .faultNow, result := false, bp := false, res32 := 0, payload := []
                       events := [] } }) ∧
    ((∀ m, codecMinimum i = some m → m ≤ i.payload.length) →
      ∀ t, exec i s = .next t → t.blk.fault = false)

/-- Rules R24 and R262: the latch is set by a codec command with a short payload and by nothing else. -/
def Obligations.LatchSetOnlyByShortCodecPayload : Prop :=
  ∀ s t : State, step s = .next t → s.blk.fault = false → t.blk.fault = true →
    ∃ packet rest i m, s.inputs = .command packet :: rest ∧ decode packet = .ok i
      ∧ codecMinimum i = some m ∧ i.payload.length < m
      ∧ t.blk = { s.blk with fault := true, faultCause := 0x01#8 }

/-- Rules R24 and R270: once set, the latch and all of the state stay until hardware reset. -/
def Obligations.LatchClearedOnlyByHardwareReset : Prop :=
  ∀ s t : State, s.blk.fault = true → step s = .next t →
    (∀ rest, s.inputs = .hardwareReset :: rest → t.blk = Block.reset cfg) ∧
    ((∀ rest, s.inputs ≠ .hardwareReset :: rest) → t.blk = s.blk)

/-- Rules R23 and R67: a codec, sync or validator command gives the same response in every state that is
not faulted, and changes nothing there but the fault latch. -/
def Obligations.PayloadCommandsIgnoreState : Prop :=
  ∀ i : Instr, readsPayloadOnly i = true → ∃ (r : Response) (fatal : Bool),
    ∀ s : State, s.blk.fault = false →
      exec i s = .next { s with
        blk := if fatal then { s.blk with fault := true, faultCause := 0x01#8 } else s.blk
        resp := some r }

/-! ### ErrorCodec -/

/-- Rules R121 and R122: the five-bit value is the sum of the first nine bytes modulo 31; `ENC5` returns
it, `CHK5` compares it with all eight bits of its expected value. -/
def Obligations.FiveBitCommandsSumNineBytes : Prop :=
  ∀ (expected : Byte) (p : Buffer) (s : State), s.blk.fault = false → 9 ≤ p.length →
    let v := ((p.take 9).map BitVec.toNat).sum % 31
    exec (.enc5 p) s = .next { s with
      resp := some { status := .ok, result := true, res32 := BitVec.ofNat 32 v } } ∧
    exec (.chk5 expected p) s = .next { s with
      resp := some { status := .ok, result := decide (v = expected.toNat)
                     res32 := BitVec.ofNat 32 v } }

/-- Rule R123: (a), (b) a flip of any of the 72 data bits, or of any bit of a matching expected value,
makes `CHK5` answer 0; (c) it stays undetected exactly when the nine bytes change their sum by a
multiple of 31; (d) the expected value 31 matches no data. -/
def Obligations.FiveBitCheckDetectsSingleFlips : Prop :=
  ∀ (e : Byte) (p : Buffer) (s : State), s.blk.fault = false → 9 ≤ p.length →
    (resultOf (exec (.chk5 e p) s) = some true →
      (∀ i < 72, resultOf (exec (.chk5 e (flipBit p i)) s) = some false) ∧
      (∀ j < 8, resultOf (exec (.chk5 (e ^^^ (1#8 <<< j)) p) s) = some false) ∧
      (∀ q : Buffer, 9 ≤ q.length → (resultOf (exec (.chk5 e q) s) = some true ↔
        ∃ k : Int, (((q.take 9).map BitVec.toNat).sum : Int)
          = ((p.take 9).map BitVec.toNat).sum + 31 * k))) ∧
    resultOf (exec (.chk5 31#8 p) s) = some false

/-- Rules R14, R130 and R140: the table form of a CRC step equals the bit-serial one, and the first
entries of the three tables are those the spec lists. -/
def Obligations.TableDrivenStepEqualsBitSerial : Prop :=
  (∀ (W : Nat) (P c : BitVec W) (b : Byte), 8 ≤ W →
    crcUpdate P c b = crcTable P ((c >>> (W - 8)).setWidth 8 ^^^ b) ^^^ (c <<< 8)) ∧
  [0#8, 1#8, 2#8, 3#8].map (crcTable 0x1189#16) = [0x0000, 0x1189, 0x2312, 0x329B] ∧
  [0#8, 1#8, 2#8, 3#8].map (crcTable 0x1021#16) = [0x0000, 0x1021, 0x2042, 0x3063] ∧
  [0#8, 1#8, 2#8, 3#8].map (crcTable 0x04C11DB5#32)
    = [0x00000000, 0x04C11DB5, 0x09823B6A, 0x0D4326DF]

/-- Rules R131 and R132: variant 1 of CRC-16, its table-driven value over all but the last two bytes,
compared with and written to them high byte first. -/
def Obligations.Crc16VariantOne : Prop :=
  ∀ (p : Buffer) (s : State), s.blk.fault = false → 3 ≤ p.length →
    let n := p.length
    let v := ~~~ tableRun 0x1189#16 0xFFFF#16 (p.take (n - 2))
    exec (.chk16a p) s = .next { s with
      resp := some { status := .ok, res32 := v.setWidth 32
                     result := decide (p.getD (n - 2) 0 = v.extractLsb' 8 8
                       ∧ p.getD (n - 1) 0 = v.extractLsb' 0 8) } } ∧
    exec (.add16a p) s = .next { s with
      resp := some { status := .ok, result := true, res32 := v.setWidth 32
                     payload := p.take (n - 2) ++ [v.extractLsb' 8 8, v.extractLsb' 0 8] } }

/-- Rules R134 and R135: variant 2 of CRC-16, low byte first. -/
def Obligations.Crc16VariantTwo : Prop :=
  ∀ (p : Buffer) (s : State), s.blk.fault = false → 3 ≤ p.length →
    let n := p.length
    let v := ~~~ tableRun 0x1021#16 0x0000#16 (p.take (n - 2))
    exec (.chk16b p) s = .next { s with
      resp := some { status := .ok, res32 := v.setWidth 32
                     result := decide (p.getD (n - 2) 0 = v.extractLsb' 0 8
                       ∧ p.getD (n - 1) 0 = v.extractLsb' 8 8) } } ∧
    exec (.add16b p) s = .next { s with
      resp := some { status := .ok, result := true, res32 := v.setWidth 32
                     payload := p.take (n - 2) ++ [v.extractLsb' 0 8, v.extractLsb' 8 8] } }

/-- Rules R140 to R143: CRC-32, its table-driven value over all but the last four bytes, compared with
and written to them least significant byte first. -/
def Obligations.Crc32LeastSignificantByteFirst : Prop :=
  ∀ (p : Buffer) (s : State), s.blk.fault = false → 5 ≤ p.length →
    let n := p.length
    let v := ~~~ tableRun 0x04C11DB5#32 0xFFFFFFFF#32 (p.take (n - 4))
    exec (.chk32 p) s = .next { s with
      resp := some { status := .ok, res32 := v
                     result := decide (p.getD (n - 4) 0 = v.extractLsb' 0 8
                       ∧ p.getD (n - 3) 0 = v.extractLsb' 8 8 ∧ p.getD (n - 2) 0 = v.extractLsb' 16 8
                       ∧ p.getD (n - 1) 0 = v.extractLsb' 24 8) } } ∧
    exec (.add32 p) s = .next { s with
      resp := some { status := .ok, result := true, res32 := v
                     payload := p.take (n - 4) ++
                       [v.extractLsb' 0 8, v.extractLsb' 8 8, v.extractLsb' 16 8,
                        v.extractLsb' 24 8] } }

/-- Rules R150 and R151: the table look-ups of `CRC8` and `CRC9`; the result of `CRC9` never has a ninth
bit. (The initial value of `CRC9` is the default of rule R9, notes/assumptions/2.md.) -/
def Obligations.Crc8AndCrc9LookUpTheirTables : Prop :=
  ∀ (p : Buffer) (s : State), s.blk.fault = false → 1 ≤ p.length →
    exec (.crc8 p) s = .next { s with
      resp := some { status := .ok, result := true
                     res32 := (p.foldl (fun c b => cfg.table8 (c ^^^ b)) 0#8).setWidth 32 } } ∧
    (let v := p.foldl (fun st b => cfg.table9 (st.setWidth 8 ^^^ b) &&& 0x00FF#16) 0#16
     exec (.crc9 p) s = .next { s with
       resp := some { status := .ok, result := true, res32 := v.setWidth 32 } } ∧ v.toNat < 2 ^ 8)

/-- Rule R152: what an `ADD` command returns passes its `CHK` command, and so does the value of `ENC5`. -/
def Obligations.AddThenCheckPasses : Prop :=
  ∀ (p : Buffer) (s : State), s.blk.fault = false →
    (3 ≤ p.length → ∃ t r, exec (.add16a p) s = .next t ∧ t.resp = some r
      ∧ resultOf (exec (.chk16a r.payload) t) = some true) ∧
    (3 ≤ p.length → ∃ t r, exec (.add16b p) s = .next t ∧ t.resp = some r
      ∧ resultOf (exec (.chk16b r.payload) t) = some true) ∧
    (5 ≤ p.length → ∃ t r, exec (.add32 p) s = .next t ∧ t.resp = some r
      ∧ resultOf (exec (.chk32 r.payload) t) = some true) ∧
    (9 ≤ p.length → ∃ t r, exec (.enc5 p) s = .next t ∧ t.resp = some r
      ∧ resultOf (exec (.chk5 (r.res32.setWidth 8) p) t) = some true)

/-- Rule R153: a buffer that passes a CRC-16 or CRC-32 check fails it after any single bit of it is
flipped, covered or trailer. -/
def Obligations.CrcChecksDetectSingleFlips : Prop :=
  ∀ (p : Buffer) (i : Nat) (s : State), s.blk.fault = false → i < 8 * p.length →
    (3 ≤ p.length → resultOf (exec (.chk16a p) s) = some true →
      resultOf (exec (.chk16a (flipBit p i)) s) = some false) ∧
    (3 ≤ p.length → resultOf (exec (.chk16b p) s) = some true →
      resultOf (exec (.chk16b (flipBit p i)) s) = some false) ∧
    (5 ≤ p.length → resultOf (exec (.chk32 p) s) = some true →
      resultOf (exec (.chk32 (flipBit p i)) s) = some false)

/-! ### FrameSync and validator -/

/-- Rules R163 and R164: a buffer that agrees with a pattern on every compared bit of its sync field
classifies as that pattern's kind; one that disagrees with every pattern on some compared bit, or is too
short, matches nothing. -/
def Obligations.SyncClassifiesMaskedPatterns : Prop :=
  ∀ (c : Cfg) (B : Buffer) (s : State), c.WellFormed → s.blk.fault = false →
    (∀ P kind, (P, kind) ∈ c.syncTable → c.syncOff + c.syncW ≤ B.length →
      (∀ k < c.syncW, B.getD (c.syncOff + k) 0 &&& c.syncMask.getD k 0
        = P.getD k 0 &&& c.syncMask.getD k 0) →
      classify c B = some kind ∧ Runs c (.sync B) s { s with
        resp := some { status := .ok, result := true, res32 := kindWord kind } }) ∧
    ((B.length < c.syncOff + c.syncW ∨ ∀ e ∈ c.syncTable, ∃ k < c.syncW,
        B.getD (c.syncOff + k) 0 &&& c.syncMask.getD k 0 ≠ e.1.getD k 0 &&& c.syncMask.getD k 0) →
      classify c B = none ∧
        Runs c (.sync B) s { s with resp := some { status := .ok, result := false, res32 := 0 } })

/-- Rules R163 and R198: `SYNC` and `VALIDATE` complete on every payload and change nothing; `SYNC`
reports a kind code of three bits when it matches and 0 when it does not, `VALIDATE` reports success
exactly with the status OK. -/
def Obligations.SyncAndValidateComplete : Prop :=
  ∀ (F : Buffer) (s : State), s.blk.fault = false →
    (∃ matched v, exec (.sync F) s = .next { s with
        resp := some { status := .ok, result := matched, res32 := v } }
      ∧ matched = (classify cfg F).isSome ∧ (matched = false → v = 0) ∧ v.toNat < 8) ∧
    (∃ status v, exec (.validate F) s = .next { s with
        resp := some { status := status, result := decide (status = .ok), res32 := v } }
      ∧ status ∈ [.ok, .dropLength, .dropSync, .dropType, .dropCheck]
      ∧ (status = .dropLength ↔ F.length ≠ cfg.frameLen))

/-- Rules R194, R197, R198 and R201: the verdict of `VALIDATE` at each stage, in the order length, sync,
type, checksum, with the words it returns. -/
def Obligations.ValidateReportsFirstFailingStage : Prop :=
  ∀ (c : Cfg) (F : Buffer) (s : State), c.WellFormed → s.blk.fault = false →
    (F.length ≠ c.frameLen →
      Runs c (.validate F) s { s with resp := some { status := .dropLength } }) ∧
    (F.length = c.frameLen → classify c F = none →
      Runs c (.validate F) s { s with resp := some { status := .dropSync } }) ∧
    (∀ kind, F.length = c.frameLen → classify c F = some kind → kind.content = .voice →
      Runs c (.validate F) s { s with
        resp := some (if checkOk c F c.voiceProfile.check
          then { status := .ok, result := true
                 res32 := 0x10000#32 ||| kindWord kind }
          else { status := .dropCheck, res32 := kindWord kind }) }) ∧
    (∀ kind, F.length = c.frameLen → classify c F = some kind → kind.content = .data →
      c.profile (c.typeOf F) = none →
      Runs c (.validate F) s { s with
        resp := some { status := .dropType
                       res32 := (c.typeOf F).setWidth 32 <<< 8 ||| kindWord kind } }) ∧
    (∀ kind p, F.length = c.frameLen → classify c F = some kind → kind.content = .data →
      c.profile (c.typeOf F) = some p →
      Runs c (.validate F) s { s with
        resp := some (if checkOk c F p.check
          then { status := .ok, result := true
                 res32 := roleWord p.role <<< 16 ||| (c.typeOf F).setWidth 32 <<< 8
                   ||| kindWord kind }
          else { status := .dropCheck
                 res32 := (c.typeOf F).setWidth 32 <<< 8 ||| kindWord kind }) })

/-- Rule R193: on every frame of `FRAME_LEN` bytes, whatever its verdict, and for every profile of a
well-formed configuration, `check_ok` is the `RESULT` of the profile's `CHK` command on the covered bytes,
which lie inside the frame and meet the codec's minimum length: no fatal fault is raised. -/
def Obligations.ValidatorMeetsCodecMinimum : Prop :=
  ∀ (c : Cfg) (F : Buffer) (p : Profile) (s : State), c.WellFormed → F.length = c.frameLen →
    (p = c.voiceProfile ∨ ∃ t, c.profile t = some p) → s.blk.fault = false →
    let covered : Nat → Nat → Buffer := fun off n => (F.drop off).take n
    let ok := checkOk c F p.check
    match p.check with
    | .none => ok = true
    | .ccitt16v1 off n =>
      3 ≤ n ∧ (covered off n).length = n ∧ checksTo c (.chk16a (covered off n)) s ok
    | .ccitt16v2 off n =>
      3 ≤ n ∧ (covered off n).length = n ∧ checksTo c (.chk16b (covered off n)) s ok
    | .crc32 off n =>
      5 ≤ n ∧ (covered off n).length = n ∧ checksTo c (.chk32 (covered off n)) s ok
    | .fivebit off eoff esh =>
      (covered off 9).length = 9 ∧ eoff < F.length ∧ esh ≤ 3 ∧
        checksTo c (.chk5 ((F.getD eoff 0 >>> esh) &&& 0x1F) (covered off 9)) s ok

/-! ### Presenting frames -/

/-- Rule R211: while a frame is pending, `PROCFRAME` and `PROCNET` do not examine theirs: they count and
answer BACKPRESSURE. -/
def Obligations.PendingFrameRefusesFrames : Prop :=
  ∀ (o : Origin) (rssi : Option (BitVec 16)) (F : Buffer) (s : State), s.blk.fault = false →
    s.blk.pend.valid = true →
    exec (offer o rssi F) s = .next { s with
      blk := { s.blk with cntBp := saturated s.blk.cntBp }
      resp := some { status := .backpressure, result := false, bp := false, events := [] } }

/-- Rule R212: a frame that fails validation changes nothing but `malformed` or `check`, and `err`, of its
origin; and only a length, sync, type or checksum failure is a drop. -/
def Obligations.InvalidFramesOnlyCount : Prop :=
  ∀ (c : Cfg) (o : Origin) (rssi : Option (BitVec 16)) (F : Buffer) (s : State) (status : Status)
    (kind : Option SyncKind) (type : Option Byte), c.WellFormed → examines s.blk →
    validate c F = .drop status kind type →
    (status ∈ [.dropLength, .dropSync, .dropType] ∧
      Runs c (offer o rssi F) s { s with
        blk := errorCounted o (fun n => { n with malformed := saturated n.malformed }) s.blk
        resp := some { status := status } }) ∨
    (status = .dropCheck ∧
      Runs c (offer o rssi F) s { s with
        blk := errorCounted o (fun n => { n with check := saturated n.check }) s.blk
        resp := some { status := .dropCheck } })

/-- Rule R214: a payload frame is a sequence violation while its half is Idle; otherwise it is accepted,
makes the half Active and is delivered. -/
def Obligations.PayloadFrameNeedsOpenCall : Prop :=
  ∀ (c : Cfg) (o : Origin) (rssi : Option (BitVec 16)) (F : Buffer) (s : State) (kind : SyncKind)
    (type : Byte) (p : Profile), c.WellFormed → examines s.blk →
    validate c F = .valid kind type p → p.role = .payload →
    Runs c (offer o rssi F) s (if (s.blk.half o).st = .idle then
      { s with
        blk := errorCounted o (fun n => { n with seq := saturated n.seq }) s.blk
        resp := some { status := .dropSeq } }
    else
      { s with
        blk := delivered c o F
          (s.blk.setHalf o (heldHalf c o F p (sampleOf o rssi) .active (s.blk.half o)))
        resp := some { status := .ok, result := true
                       bp := decide (s.blk.q.length = c.queueDepth) } })

/-- Rule R215: a terminator is ignored while its half is Idle; with ids of another destination it is a
sequence violation; otherwise it is accepted, not enqueued, and ends the call gracefully. -/
def Obligations.TerminatorEndsItsCall : Prop :=
  ∀ (c : Cfg) (o : Origin) (rssi : Option (BitVec 16)) (F : Buffer) (s : State) (kind : SyncKind)
    (type : Byte) (p : Profile), c.WellFormed → examines s.blk →
    validate c F = .valid kind type p → p.role = .terminator →
    let h := s.blk.half o
    let held := { heldHalf c o F p (sampleOf o rssi) h.st h with tmo := h.tmo }
    (h.st = .idle → Runs c (offer o rssi F) s { s with
      blk := s.blk.setHalf o { h with cnt := { h.cnt with ignored := saturated h.cnt.ignored } }
      resp := some { status := .ignored } }) ∧
    (h.st ≠ .idle → p.hasIds = true → ¬ sameDestination s.blk.ctx (c.hdrOf F) →
      Runs c (offer o rssi F) s { s with
        blk := errorCounted o (fun n => { n with seq := saturated n.seq }) s.blk
        resp := some { status := .dropSeq } }) ∧
    (h.st ≠ .idle → (p.hasIds = true → sameDestination s.blk.ctx (c.hdrOf F)) →
      Runs c (offer o rssi F) s { s with
        blk := endedBlock c o .graceful (s.blk.setHalf o held)
        resp := some { status := .ok, result := true
                       events := callEndEvents o .graceful s.blk.ctx held.rssi } })

/-- Rules R220 and R222: a header whose half and whose other half are Idle, that the lookups accept and
the hang timer does not refuse, opens a call. -/
def Obligations.AdmittedHeaderOpensCall : Prop :=
  ∀ (c : Cfg) (o : Origin) (rssi : Option (BitVec 16)) (F : Buffer) (s : State) (kind : SyncKind)
    (type : Byte) (p : Profile), c.WellFormed → examines s.blk →
    validate c F = .valid kind type p → p.role = .header →
    s.blk.rf.st = .idle → s.blk.net.st = .idle → lookupsAdmit c (c.hdrOf F) →
    ¬ hangRefuses c o (c.hdrOf F) s.blk.ctx →
    Runs c (offer o rssi F) s { s with
      blk := openedBlock c o F p (sampleOf o rssi) (c.hdrOf F) s.blk
      resp := some { status := .ok, result := true
                     bp := decide (s.blk.q.length = c.queueDepth)
                     events := [headerRecord .callStart o (c.hdrOf F)] } }

/-- Rules R220 and R221: a header whose half is Idle is refused by the lookups, as a duplicate of the
other origin's call, by arbitration, or by the hang timer; each refusal counts, emits its event, and
changes nothing else. -/
def Obligations.RefusedHeadersOnlyCount : Prop :=
  ∀ (c : Cfg) (o : Origin) (rssi : Option (BitVec 16)) (F : Buffer) (s : State) (kind : SyncKind)
    (type : Byte) (p : Profile), c.WellFormed → examines s.blk →
    validate c F = .valid kind type p → p.role = .header → (s.blk.half o).st = .idle →
    let h := c.hdrOf F
    (¬ lookupsAdmit c h → Runs c (offer o rssi F) s { s with
      blk := errorCounted o (fun n => { n with id := saturated n.id }) s.blk
      resp := some { status := .dropId, events := [headerRecord .idReject o h] } }) ∧
    (lookupsAdmit c h → (s.blk.half (other o)).st ≠ .idle → sameDestination s.blk.ctx h →
      Runs c (offer o rssi F) s { s with
        blk := errorCounted o (fun n => { n with arbDup := saturated n.arbDup }) s.blk
        resp := some { status := .arbDuplicate, events := [headerRecord .arbDuplicate o h] } }) ∧
    (lookupsAdmit c h → (s.blk.half (other o)).st ≠ .idle → ¬ sameDestination s.blk.ctx h →
      ¬ isFavoured c o → Runs c (offer o rssi F) s { s with
        blk := errorCounted o (fun n => { n with arbReject := saturated n.arbReject }) s.blk
        resp := some { status := .arbReject, events := [headerRecord .arbReject o h] } }) ∧
    (lookupsAdmit c h → (s.blk.half (other o)).st = .idle → hangRefuses c o h s.blk.ctx →
      Runs c (offer o rssi F) s { s with
        blk := errorCounted o (fun n => { n with hangReject := saturated n.hangReject }) s.blk
        resp := some { status := .hangReject, events := [headerRecord .hangReject o h] } })

/-- Rule R221: a header of the favoured origin for another destination ends the other origin's call with
reason PREEMPTED and opens its own. -/
def Obligations.FavouredHeaderPreempts : Prop :=
  ∀ (c : Cfg) (o : Origin) (rssi : Option (BitVec 16)) (F : Buffer) (s : State) (kind : SyncKind)
    (type : Byte) (p : Profile), c.WellFormed → examines s.blk →
    validate c F = .valid kind type p → p.role = .header → (s.blk.half o).st = .idle →
    (s.blk.half (other o)).st ≠ .idle → lookupsAdmit c (c.hdrOf F) →
    ¬ sameDestination s.blk.ctx (c.hdrOf F) → isFavoured c o →
    Runs c (offer o rssi F) s { s with
      blk := openedBlock c o F p (sampleOf o rssi) (c.hdrOf F)
        (endedBlock c (other o) .preempted s.blk)
      resp := some { status := .ok, result := true
                     bp := decide (s.blk.q.length = c.queueDepth)
                     events := callEndEvents (other o) .preempted s.blk.ctx
                         (s.blk.half (other o)).rssi
                       ++ [headerRecord .callStart o (c.hdrOf F)] } }

/-- Rule R217: a header for the destination of the origin's own open call is one more frame of it: the
half is Active, the source is the header's, and no call starts. -/
def Obligations.RepeatedHeaderContinuesCall : Prop :=
  ∀ (c : Cfg) (o : Origin) (rssi : Option (BitVec 16)) (F : Buffer) (s : State) (kind : SyncKind)
    (type : Byte) (p : Profile), c.WellFormed → examines s.blk →
    validate c F = .valid kind type p → p.role = .header → (s.blk.half o).st ≠ .idle →
    sameDestination s.blk.ctx (c.hdrOf F) →
    Runs c (offer o rssi F) s { s with
      blk := delivered c o F
        { s.blk.setHalf o (heldHalf c o F p (sampleOf o rssi) .active (s.blk.half o)) with
          ctx := { s.blk.ctx with src := (c.hdrOf F).src } }
      resp := some { status := .ok, result := true
                     bp := decide (s.blk.q.length = c.queueDepth) } }

/-- Rule R218: a header for another destination force-ends the origin's own call first; if the lookups
then refuse it, no call opens, and if it is admitted, its call opens. -/
def Obligations.ForeignHeaderForcesEnd : Prop :=
  ∀ (c : Cfg) (o : Origin) (rssi : Option (BitVec 16)) (F : Buffer) (s : State) (kind : SyncKind)
    (type : Byte) (p : Profile), c.WellFormed → examines s.blk →
    validate c F = .valid kind type p → p.role = .header → (s.blk.half o).st ≠ .idle →
    (s.blk.half (other o)).st = .idle → ¬ sameDestination s.blk.ctx (c.hdrOf F) →
    let h := c.hdrOf F
    let ended := endedBlock c o .forced s.blk
    let events := callEndEvents o .forced s.blk.ctx (s.blk.half o).rssi
    (¬ lookupsAdmit c h → Runs c (offer o rssi F) s { s with
      blk := errorCounted o (fun n => { n with id := saturated n.id }) ended
      resp := some { status := .dropId, events := events ++ [headerRecord .idReject o h] } }) ∧
    (lookupsAdmit c h → ¬ hangRefuses c o h ended.ctx → Runs c (offer o rssi F) s { s with
      blk := openedBlock c o F p (sampleOf o rssi) h ended
      resp := some { status := .ok, result := true
                     bp := decide (s.blk.q.length = c.queueDepth)
                     events := events ++ [headerRecord .callStart o h] } })

/-- Rules R210, R213, R234 and R236: `PROCFRAME` and `PROCNET` complete on every frame when the block is
not faulted and no frame is pending, and a frame that is not accepted is not delivered; what they do
follows the verdict of validation and the role of the frame. -/
def Obligations.FrameCommandsComplete : Prop :=
  ∀ (o : Origin) (rssi : Option (BitVec 16)) (F : Buffer) (s : State), examines s.blk →
    (∃ t r, exec (offer o rssi F) s = .next t ∧ t.inputs = s.inputs ∧ t.resp = some r
      ∧ r.payload = [] ∧ r.res32 = 0 ∧ r.result = decide (r.status = .ok)
      ∧ (r.result = false → t.blk.undelivered = s.blk.undelivered)) ∧
    ∀ c : Cfg, c.WellFormed → ∃ t r, Runs c (offer o rssi F) s t ∧ t.resp = some r ∧
      (∀ status kind type, validate c F = .drop status kind type →
        r = { status := status } ∧ t.blk.undelivered = s.blk.undelivered) ∧
      (∀ kind type p, validate c F = .valid kind type p → p.role = .payload →
        (s.blk.half o).st ≠ .idle →
        r.status = .ok ∧ r.result = true ∧ r.events = [] ∧ (t.blk.half o).st = .active
          ∧ t.blk.undelivered = s.blk.undelivered ++ [⟨o, F⟩]) ∧
      (∀ kind type p, validate c F = .valid kind type p → p.role = .terminator →
        p.hasIds = false → (s.blk.half o).st ≠ .idle →
        r.status = .ok ∧ r.result = true ∧ (t.blk.half o).st = .idle
          ∧ t.blk.undelivered = s.blk.undelivered) ∧
      (∀ kind type p, validate c F = .valid kind type p → p.role = .header →
        lookupsAdmit c (c.hdrOf F) → s.blk.rf.st = .idle → s.blk.net.st = .idle →
        s.blk.ctx.hang.ts ≠ .running →
        r.status = .ok ∧ r.result = true ∧ r.events = [headerRecord .callStart o (c.hdrOf F)]
          ∧ (t.blk.half o).st = .receiving ∧ t.blk.ctx.owner = o
          ∧ t.blk.undelivered = s.blk.undelivered ++ [⟨o, F⟩])

/-- Rule R236: `PROCNET` with no frame pulled answers NET_EMPTY and changes nothing. -/
def Obligations.EmptyNetworkPullChangesNothing : Prop :=
  ∀ s : State, s.blk.fault = false →
    exec (.procnet none) s = .next { s with
      resp := some { status := .netEmpty, result := false, bp := false, res32 := 0, payload := []
                     events := [] } }

/-- Rules R225 and R231: a frame of one origin leaves the other half as it is, except that a pre-emption
ends its call. -/
def Obligations.FramesLeaveOtherHalf : Prop :=
  ∀ (c : Cfg) (o : Origin) (rssi : Option (BitVec 16)) (F : Buffer) (s t : State),
    Runs c (offer o rssi F) s t →
    t.blk.half (other o) = s.blk.half (other o) ∨
      (isFavoured c o ∧ (s.blk.half (other o)).st ≠ .idle ∧
        t.blk.half (other o) = endedHalf .preempted (s.blk.half (other o)))

/-- Rules R28 and R222: a command takes a half out of Idle only if it presents an admitted header of the
half's own origin; the half is then Receiving and the context's owner, and the other half is Idle. -/
def Obligations.CallsOpenOnlyByHeader : Prop :=
  ∀ (c : Cfg) (i : Instr) (s t : State) (o : Origin), Runs c i s t → (s.blk.half o).st = .idle →
    (t.blk.half o).st ≠ .idle →
    (t.blk.half o).st = .receiving ∧ (t.blk.half (other o)).st = .idle ∧ t.blk.ctx.valid = true
      ∧ t.blk.ctx.owner = o ∧
      ∃ rssi F kind type p, i = offer o rssi F ∧ validate c F = .valid kind type p
        ∧ p.role = .header ∧ lookupsAdmit c (c.hdrOf F)

/-- Rule R226: a sample updates count, least, greatest and sum; the 48-bit sum never wraps, and the
average stays between the least and the greatest sample. -/
def Obligations.RssiSampleUpdatesStatistics : Prop :=
  ∀ (r : RssiStats) (x : BitVec 16), r.Bounded →
    (r.count = 0xFFFFFFFF#32 → r.add x = r) ∧
    (r.count ≠ 0xFFFFFFFF#32 →
      (r.add x).count.toNat = r.count.toNat + 1 ∧
      (r.add x).min.toInt = (if r.count = 0#32 then x.toInt else min r.min.toInt x.toInt) ∧
      (r.add x).max.toInt = (if r.count = 0#32 then x.toInt else max r.max.toInt x.toInt) ∧
      (r.add x).sum.toInt = r.sum.toInt + x.toInt) ∧
    (r.add x).Bounded ∧
    (r.add x).min.toInt ≤ (r.add x).avg ∧ (r.add x).avg ≤ (r.add x).max.toInt

/-! ### Delivery -/

/-- Rules R172 and R238: `GETFRAME` returns the oldest entry, its bytes and origin tag, and removes it;
on an empty queue it returns length 0 and changes nothing, whether or not a frame is pending. -/
def Obligations.GetframeReturnsOldestEntry : Prop :=
  ∀ s : State, s.blk.fault = false →
    (s.blk.q = [] → exec .getframe s = .next { s with
      resp := some { status := .ok, result := true, res32 := 0, payload := [] } }) ∧
    (∀ e rest, s.blk.q = e :: rest → exec .getframe s = .next { s with
      blk := { s.blk with q := rest }
      resp := some { status := .ok, result := true, payload := e.bytes
                     res32 := match e.origin with | .rf => 0#32 | .net => 1#32 } })

/-- Rules R41, R74 and R173: a step that is no reset either leaves the frames awaiting delivery as they
are, or appends the one frame it accepted at their end, or returns and removes the first. -/
def Obligations.DeliveryKeepsAcceptanceOrder : Prop :=
  ∀ s t : State, step s = .next t → (∀ rest, s.inputs ≠ .hardwareReset :: rest) →
    (∀ packet rest, s.inputs = .command packet :: rest → decode packet ≠ .ok .reset) →
    t.blk.undelivered = s.blk.undelivered ∨
    (∃ packet rest o rssi F, s.inputs = .command packet :: rest
      ∧ decode packet = .ok (offer o rssi F) ∧ s.blk.pend.valid = false
      ∧ t.blk.undelivered = s.blk.undelivered ++ [⟨o, F⟩]) ∨
    (∃ e, s.blk.undelivered = e :: t.blk.undelivered ∧ t.resp.map Response.payload = some e.bytes)

/-! ### Time -/

/-- Rules R183 and R242: a `CLOCK` in which no timer expires takes its milliseconds off every running
timer and changes nothing else, but for the retry of a pending frame (rule R241). -/
def Obligations.ClockAdvancesRunningTimers : Prop :=
  ∀ (ms : Word32) (s : State), s.blk.fault = false → outlasts ms s.blk.rf.tmo →
    outlasts ms s.blk.net.tmo → outlasts ms s.blk.ctx.hang →
    exec (.clock ms) s = .next { s with
      blk := { retried cfg s.blk with
        rf := { s.blk.rf with tmo := later ms s.blk.rf.tmo }
        net := { s.blk.net with tmo := later ms s.blk.net.tmo }
        ctx := { s.blk.ctx with hang := later ms s.blk.ctx.hang } }
      resp := some { status := .ok, result := true, res32 := 0, payload := [], events := [] } }

/-- Rules R241 to R244: the `CLOCK` in which an origin's timeout is reached ends its call with reason
TIMEOUT and starts the hang timer, which that `CLOCK` does not advance, after the retry of a pending
frame, whether that finds room or not. -/
def Obligations.TimeoutEndsCall : Prop :=
  ∀ (o : Origin) (ms : Word32) (s : State), s.blk.fault = false →
    expiresWithin ms (s.blk.half o).tmo → (s.blk.half (other o)).tmo.ts = .stopped →
    exec (.clock ms) s = .next { s with
      blk := endedBlock cfg o .timeout (retried cfg s.blk)
      resp := some { status := .ok, result := true
                     events := callEndEvents o .timeout s.blk.ctx (s.blk.half o).rssi } }

/-- Rules R37, R241 and R245: the `CLOCK` in which the hang timer expires clears the context and reports
what it cleared, after the retry of a pending frame, whether that finds room or not. -/
def Obligations.HangExpiryClearsContext : Prop :=
  ∀ (ms : Word32) (s : State), s.blk.fault = false →
    s.blk.rf.tmo.ts = .stopped → s.blk.net.tmo.ts = .stopped → expiresWithin ms s.blk.ctx.hang →
    exec (.clock ms) s = .next { s with
      blk := { retried cfg s.blk with ctx := ⟨false, 0, 0, false, .rf, ⟨.stopped, 0⟩⟩ }
      resp := some { status := .ok, result := true
                     events := [⟨.hangExpired, s.blk.ctx.owner, none, s.blk.ctx.grp, s.blk.ctx.dst,
                       s.blk.ctx.src, 0#32⟩] } }

/-- Rule R246: from a good state a `CLOCK` response holds at most two events, all of one origin and, if
two, a call end and its RSSI report; with no running timer and no pending frame it changes nothing. -/
def Obligations.ClockEmitsAtMostTwoEvents : Prop :=
  ∀ (ms : Word32) (s : State), s.Invariant → s.blk.fault = false → ∃ t r,
    exec (.clock ms) s = .next t ∧ t.resp = some r ∧
      (r.events = [] ∨ (∃ e, r.events = [e] ∧ e.code ∈ [.callEnd, .hangExpired]) ∨
        ∃ e f, r.events = [e, f] ∧ e.code = .callEnd ∧ f.code = .rssiReport ∧ e.origin = f.origin) ∧
      (s.blk.rf.tmo.ts ≠ .running → s.blk.net.tmo.ts ≠ .running → s.blk.ctx.hang.ts ≠ .running →
        s.blk.pend.valid = false → t.blk = s.blk)

/-! ### Reading -/

/-- Rule R247: `ISBUSY` is true while the RF or the NET state is not Idle. -/
def Obligations.IsbusyReportsOpenCall : Prop :=
  ∀ s : State, s.blk.fault = false → exec .isbusy s = .next { s with
    resp := some { status := .ok, res32 := 0, payload := [], events := []
                   result := decide (s.blk.rf.st ≠ .idle ∨ s.blk.net.st ≠ .idle) } }

/-- Rules R43 to R45 and R250: every defined selector reads its word with no side effect, there are 51 of
them, and every other selector is answered BADCMD. (That the word of Q_COUNT, selector `0x0C`, is the
queue's length reduced to 32 bits is the model's choice, read from rule R11: notes/assumptions/9.md.) -/
def Obligations.RdstatReadsStatusWords : Prop :=
  ∀ s : State, s.blk.fault = false →
    (∀ w ∈ statusTable s.blk, exec (.rdstat w.1) s = .next { s with
      resp := some { status := .ok, result := true, res32 := w.2, payload := [], events := [] } }) ∧
    ((statusTable s.blk).map Prod.fst).Nodup ∧ (statusTable s.blk).length = 51 ∧
    (∀ sel, (∃ w ∈ statusTable s.blk, w.1 = sel) ↔ selectorDefined sel = true) ∧
    (∀ sel, selectorDefined sel = false → exec (.rdstat sel) s = .next { s with
      resp := some { status := .badCmd } })

/-- Rule R252: `RDLC` returns the link-control cache of the selected half, `RESULT` saying whether it
holds a decode, and changes nothing. -/
def Obligations.RdlcReturnsCache : Prop :=
  ∀ (o : Origin) (s : State), s.blk.fault = false → exec (.rdlc o) s = .next { s with
    resp := some { status := .ok, result := (s.blk.half o).lcValid, res32 := 0
                   payload := (s.blk.half o).lc, events := [] } }

/-! ### The machine as a whole -/

/-- The reset state is good. -/
def Obligations.ResetStateIsGood : Prop := State.reset.Invariant

/-- Rules R24, R27, R28, R30, R31, R35, R37, R38 and R231: every step from a good state leads to a good
state. -/
def Obligations.StepsKeepInvariant : Prop :=
  ∀ s t : State, s.Invariant → step s = .next t → t.Invariant

/-- Rules R83 to R85: every response returned from a good state has at most three events, a payload that
fits `LEN`, and flags that agree with its status. -/
def Obligations.ResponsesAreWellShaped : Prop :=
  ∀ (s t : State) (r : Response), s.Invariant → s.inputs ≠ [] → step s = .next t →
    t.resp = some r → r.WellShaped
end

