-- ==== Sys2Proof/Laws/State.lean ====
section
/-! SUPPORT. One lemma per field per update of the state: the halves of a block and the answered
machine, so that no proof unfolds a record update. -/

namespace Sys2Proof.Machine

@[simp] theorem other_other (o : Origin) : other (other o) = o := by cases o <;> rfl
@[simp] theorem other_ne (o : Origin) : other o ≠ o := by cases o <;> simp [other]
@[simp] theorem ne_other (o : Origin) : o ≠ other o := by cases o <;> simp [other]
theorem eq_or_eq_other (o o' : Origin) : o' = o ∨ o' = other o := by
  cases o <;> cases o' <;> simp [other]

namespace Block

@[simp] theorem half_rf (b : Block) : b.half .rf = b.rf := rfl
@[simp] theorem half_net (b : Block) : b.half .net = b.net := rfl
@[simp] theorem setHalf_rf_rf (b : Block) (h : Half) : (b.setHalf .rf h).rf = h := rfl
@[simp] theorem setHalf_rf_net (b : Block) (h : Half) : (b.setHalf .rf h).net = b.net := rfl
@[simp] theorem setHalf_net_rf (b : Block) (h : Half) : (b.setHalf .net h).rf = b.rf := rfl
@[simp] theorem setHalf_net_net (b : Block) (h : Half) : (b.setHalf .net h).net = h := rfl
@[simp] theorem half_setHalf (b : Block) (o : Origin) (h : Half) : (b.setHalf o h).half o = h := by
  cases o <;> rfl
@[simp] theorem half_setHalf_other (b : Block) (o : Origin) (h : Half) :
    (b.setHalf o h).half (other o) = b.half (other o) := by cases o <;> rfl
@[simp] theorem half_other_setHalf (b : Block) (o : Origin) (h : Half) :
    (b.setHalf (other o) h).half o = b.half o := by cases o <;> rfl
@[simp] theorem setHalf_half (b : Block) (o : Origin) : b.setHalf o (b.half o) = b := by
  cases o <;> rfl
@[simp] theorem setHalf_setHalf (b : Block) (o : Origin) (h h' : Half) :
    (b.setHalf o h).setHalf o h' = b.setHalf o h' := by cases o <;> rfl
theorem setHalf_comm (b : Block) (o : Origin) (h h' : Half) :
    (b.setHalf o h).setHalf (other o) h' = (b.setHalf (other o) h').setHalf o h := by
  cases o <;> rfl

@[simp] theorem setHalf_fault (b : Block) (o : Origin) (h : Half) :
    (b.setHalf o h).fault = b.fault := by cases o <;> rfl
@[simp] theorem setHalf_faultCause (b : Block) (o : Origin) (h : Half) :
    (b.setHalf o h).faultCause = b.faultCause := by cases o <;> rfl
@[simp] theorem setHalf_ctx (b : Block) (o : Origin) (h : Half) : (b.setHalf o h).ctx = b.ctx := by
  cases o <;> rfl
@[simp] theorem setHalf_q (b : Block) (o : Origin) (h : Half) : (b.setHalf o h).q = b.q := by
  cases o <;> rfl
@[simp] theorem setHalf_pend (b : Block) (o : Origin) (h : Half) :
    (b.setHalf o h).pend = b.pend := by cases o <;> rfl
@[simp] theorem setHalf_cntBp (b : Block) (o : Origin) (h : Half) :
    (b.setHalf o h).cntBp = b.cntBp := by cases o <;> rfl

/-! Updates of the other fields leave the halves as they are, and commute with `setHalf`. -/

@[simp] theorem half_with_ctx (b : Block) (x : Context) (o : Origin) :
    Block.half { b with ctx := x } o = b.half o := by cases o <;> rfl
@[simp] theorem half_with_q (b : Block) (x : List QEntry) (o : Origin) :
    Block.half { b with q := x } o = b.half o := by cases o <;> rfl
@[simp] theorem half_with_pend (b : Block) (x : Pending) (o : Origin) :
    Block.half { b with pend := x } o = b.half o := by cases o <;> rfl
@[simp] theorem half_with_cntBp (b : Block) (x : Word32) (o : Origin) :
    Block.half { b with cntBp := x } o = b.half o := by cases o <;> rfl
@[simp] theorem half_with_fault (b : Block) (f : Bool) (x : Byte) (o : Origin) :
    Block.half { b with fault := f, faultCause := x } o = b.half o := by cases o <;> rfl
@[simp] theorem setHalf_with_ctx (b : Block) (x : Context) (o : Origin) (h : Half) :
    Block.setHalf { b with ctx := x } o h = { b.setHalf o h with ctx := x } := by cases o <;> rfl

end Block

/-! The answered machine. -/

@[simp] theorem State.answer_blk (s : State) (r : Block × Response) : (s.answer r).blk = r.1 := rfl
@[simp] theorem State.answer_inputs (s : State) (r : Block × Response) :
    (s.answer r).inputs = s.inputs := rfl
@[simp] theorem State.answer_resp (s : State) (r : Block × Response) :
    (s.answer r).resp = some r.2 := rfl

/-- A command that leaves the block as it is only answers. -/
theorem State.answer_same (s : State) (r : Response) :
    s.answer (s.blk, r) = { s with resp := some r } := rfl

/-! The block after reset. -/

@[simp] theorem Block.reset_half (c : Cfg) (o : Origin) : (Block.reset c).half o = Half.reset c := by
  cases o <;> rfl
@[simp] theorem Block.reset_ctx (c : Cfg) : (Block.reset c).ctx = {} := rfl
@[simp] theorem Block.reset_q (c : Cfg) : (Block.reset c).q = [] := rfl
@[simp] theorem Block.reset_pend (c : Cfg) : (Block.reset c).pend = { bytes := zeros c.frameLen } :=
  rfl
@[simp] theorem Block.reset_fault (c : Cfg) : (Block.reset c).fault = false := rfl
@[simp] theorem Half.reset_st (c : Cfg) : (Half.reset c).st = .idle := rfl

end Sys2Proof.Machine
end

