-- ==== Sys2Proof/Laws/Ops.lean ====
section
/-! SUPPORT. What each shared operation of `Machine/Ops.lean` does, said once: saturating counters, the
delivery queue, the timers, the RSSI record, the fault gate, and buffers as fields. -/

namespace Sys2Proof.Machine

/-! ### Saturating counters (rule R33) -/

theorem toNat_satInc (v : Word32) : (satInc v).toNat = min (v.toNat + 1) (2 ^ 32 - 1) := by
  unfold satInc
  split
  · next h => subst h; rfl
  · next h =>
    have hv : v.toNat < 2 ^ 32 := v.isLt
    have : v.toNat ≠ 4294967295 := fun e => h (BitVec.eq_of_toNat_eq e)
    rw [BitVec.toNat_add]; simp; omega

/-- A counter never decreases. -/
theorem le_satInc (v : Word32) : v.toNat ≤ (satInc v).toNat := by
  rw [toNat_satInc]; have := v.isLt; omega

/-! ### The delivery queue (rules R171, R172) -/

theorem qPush_eq_some {depth : Nat} {q q' : List QEntry} {e : QEntry} :
    qPush depth q e = some q' ↔ q.length ≠ depth ∧ q' = q ++ [e] := by
  unfold qPush; split <;> simp_all [eq_comm]

theorem qPush_eq_none {depth : Nat} {q : List QEntry} {e : QEntry} :
    qPush depth q e = none ↔ q.length = depth := by
  unfold qPush; split <;> simp_all

/-- A bounded queue stays bounded. -/
theorem qPush_length_le {depth : Nat} {q q' : List QEntry} {e : QEntry}
    (h : qPush depth q e = some q') (hq : q.length ≤ depth) : q'.length ≤ depth := by
  obtain ⟨hne, rfl⟩ := qPush_eq_some.1 h
  simp; omega

theorem qPop_eq_some {q rest : List QEntry} {e : QEntry} : qPop q = some (e, rest) ↔ q = e :: rest := by
  cases q <;> simp [qPop]

theorem qPop_eq_none {q : List QEntry} : qPop q = none ↔ q = [] := by cases q <;> simp [qPop]

/-! ### Timers (rules R181 to R184) -/

@[simp] theorem Timer.start_ts (T : Word32) : (Timer.start T).ts = .running := rfl
@[simp] theorem Timer.start_rem (T : Word32) : (Timer.start T).rem = T := rfl
@[simp] theorem Timer.stop_ts : Timer.stop.ts = .stopped := rfl
@[simp] theorem Timer.stop_rem : Timer.stop.rem = 0#32 := rfl

/-- A timer that is not running ignores the clock. -/
theorem Timer.advance_of_not_running {t : Timer} (ms : Word32) (h : t.ts ≠ .running) :
    t.advance ms = t := by simp [Timer.advance, h]

/-- A running timer with time left goes on. -/
theorem Timer.advance_of_lt {t : Timer} {ms : Word32} (h : t.ts = .running)
    (hlt : ms.toNat < t.rem.toNat) : t.advance ms = ⟨.running, t.rem - ms⟩ := by
  have hle : ms ≤ t.rem := by rw [BitVec.le_def]; omega
  have hne : t.rem - ms ≠ 0#32 := by
    intro he
    have : (t.rem - ms).toNat = 0 := by rw [he]; rfl
    rw [BitVec.toNat_sub_of_le hle] at this
    omega
  simp [Timer.advance, h, hle, hne]

/-- A running timer whose time is up expires, and shows 0. -/
theorem Timer.advance_of_ge {t : Timer} {ms : Word32} (h : t.ts = .running)
    (hge : t.rem.toNat ≤ ms.toNat) : t.advance ms = ⟨.expired, 0#32⟩ := by
  by_cases hle : ms ≤ t.rem
  · have : ms = t.rem := BitVec.eq_of_toNat_eq (by rw [BitVec.le_def] at hle; omega)
    simp [Timer.advance, h, this]
  · simp [Timer.advance, h, hle]

/-- Everything an advance can do to a timer. -/
theorem Timer.advance_cases (t : Timer) (ms : Word32) :
    (t.ts ≠ .running ∧ t.advance ms = t) ∨
    (t.ts = .running ∧ ms.toNat < t.rem.toNat ∧ t.advance ms = ⟨.running, t.rem - ms⟩) ∨
    (t.ts = .running ∧ t.rem.toNat ≤ ms.toNat ∧ t.advance ms = ⟨.expired, 0#32⟩) := by
  by_cases h : t.ts = .running
  · rcases Nat.lt_or_ge ms.toNat t.rem.toNat with hlt | hge
    · exact .inr (.inl ⟨h, hlt, Timer.advance_of_lt h hlt⟩)
    · exact .inr (.inr ⟨h, hge, Timer.advance_of_ge h hge⟩)
  · exact .inl ⟨h, Timer.advance_of_not_running ms h⟩

theorem Timer.within_start (T : Word32) : (Timer.start T).Within T := ⟨by simp, by simp⟩

theorem Timer.within_stop (T : Word32) : Timer.stop.Within T := ⟨fun _ => rfl, by rw [BitVec.le_def]; exact Nat.zero_le _⟩

/-- Time keeps a timer within its duration. -/
theorem Timer.within_advance {T : Word32} {t : Timer} (ms : Word32) (h : t.Within T) :
    (t.advance ms).Within T := by
  rcases t.advance_cases ms with ⟨_, e⟩ | ⟨_, hlt, e⟩ | ⟨_, _, e⟩ <;> rw [e]
  · exact h
  · refine ⟨by simp, ?_⟩
    have hle : ms ≤ t.rem := by rw [BitVec.le_def]; omega
    have := h.2
    rw [BitVec.le_def] at this ⊢
    rw [BitVec.toNat_sub_of_le hle]
    omega
  · exact ⟨fun _ => rfl, by rw [BitVec.le_def]; exact Nat.zero_le _⟩

/-! ### Destinations (rule R36) -/

theorem Context.sameDst_iff (ctx : Context) (d : Id) (g : Bool) :
    ctx.sameDst d g = true ↔ ctx.valid = true ∧ ctx.dst = d ∧ ctx.grp = g := by
  simp [Context.sameDst, and_assoc]

/-! ### The fault gate (rules R93, R263) -/

theorem gate_faulted {b : Block} (h : b.fault = true) (body : Block × Response) :
    gate b body = (b, Response.faulted b.faultCause) := by simp [gate, h]

theorem gate_ready {b : Block} (h : b.fault = false) (body : Block × Response) :
    gate b body = body := by simp [gate, h]

/-- Hardware reset leads to the reset state from every state (rule R290). -/
theorem hardwareReset_eq (c : Cfg) (b : Block) : hardwareReset c b = Block.reset c := rfl

/-! ### The RSSI record (rules R31, R226) -/

theorem RssiStats.add_saturated {r : RssiStats} (x : BitVec 16) (h : r.count = 0xFFFFFFFF#32) :
    r.add x = r := by simp [RssiStats.add, h]

theorem RssiStats.add_first {r : RssiStats} (x : BitVec 16) (h : r.count = 0#32) :
    r.add x = ⟨1#32, x, x, r.sum + x.signExtend 48⟩ := by
  simp [RssiStats.add, h]

/-- The average of a record without samples is 0. -/
theorem RssiStats.avg_zero {r : RssiStats} (h : r.count = 0#32) : r.avg = 0 := by
  simp [RssiStats.avg, h]

/-! ### Buffers as fields (rules R63 to R65) -/

@[simp] theorem ofBe16_be16 (v : BitVec 16) : ofBe16 (hiByte v) (loByte v) = v := by
  ext i h
  simp only [ofBe16, hiByte, loByte, ← BitVec.getLsbD_eq_getElem, BitVec.getLsbD_append,
    BitVec.getLsbD_extractLsb']
  grind

@[simp] theorem hiByte_ofBe16 (h l : Byte) : hiByte (ofBe16 h l) = h := by
  ext i hi
  simp only [ofBe16, hiByte, ← BitVec.getLsbD_eq_getElem, BitVec.getLsbD_append,
    BitVec.getLsbD_extractLsb']
  grind

@[simp] theorem loByte_ofBe16 (h l : Byte) : loByte (ofBe16 h l) = l := by
  ext i hi
  simp only [ofBe16, loByte, ← BitVec.getLsbD_eq_getElem, BitVec.getLsbD_append,
    BitVec.getLsbD_extractLsb']
  grind

@[simp] theorem length_be16 (v : BitVec 16) : (be16 v).length = 2 := rfl
@[simp] theorem length_be32 (v : Word32) : (be32 v).length = 4 := rfl

theorem ofBe32_be32 (v : Word32) :
    ofBe32 (byteOf32 v 3) (byteOf32 v 2) (byteOf32 v 1) (byteOf32 v 0) = v := by
  ext i h
  simp only [ofBe32, byteOf32, ← BitVec.getLsbD_eq_getElem, BitVec.getLsbD_append,
    BitVec.getLsbD_extractLsb']
  grind

theorem byteOf32_ofBe32 (b3 b2 b1 b0 : Byte) :
    byteOf32 (ofBe32 b3 b2 b1 b0) 3 = b3 ∧ byteOf32 (ofBe32 b3 b2 b1 b0) 2 = b2 ∧
    byteOf32 (ofBe32 b3 b2 b1 b0) 1 = b1 ∧ byteOf32 (ofBe32 b3 b2 b1 b0) 0 = b0 := by
  refine ⟨?_, ?_, ?_, ?_⟩ <;> ext i h <;>
    simp only [ofBe32, byteOf32, ← BitVec.getLsbD_eq_getElem,
      BitVec.getLsbD_append, BitVec.getLsbD_extractLsb'] <;> grind

end Sys2Proof.Machine
end

