-- ==== Sys2Proof/Laws/Decode.lean ====
section
/-! SUPPORT. What the decoder does, said once: the packet of given fields decodes by its fields, bytes
that are no packet are refused as such, and a decoded command has the packet's fields. -/

namespace Sys2Proof

open Sys2Proof.Machine

/-- The packet with these fields decodes by its fields (rules R81, R82). -/
theorem decode_packet (op arg8 : Byte) (arg32 : Word32) {payload : Buffer}
    (h : payload.length ≤ 65535) :
    decode ([op, arg8] ++ be16 (BitVec.ofNat 16 payload.length) ++ be32 arg32 ++ payload)
      = decodeFields op arg8 arg32 payload := by
  have hl : (BitVec.ofNat 16 payload.length).toNat = payload.length := by
    rw [BitVec.toNat_ofNat]; omega
  simp [decode, be16, be32, ofBe32_be32, hl, -BitVec.toNat_ofNat]

/-- The packets, and the bytes that are none: every buffer is the packet of some fields, or is refused
as not well delimited (rules R80, R93). -/
theorem decode_cases (p : Buffer) :
    (∃ op arg8 arg32 payload, payload.length ≤ 65535 ∧
      p = [op, arg8] ++ be16 (BitVec.ofNat 16 payload.length) ++ be32 arg32 ++ payload ∧
      decode p = decodeFields op arg8 arg32 payload) ∨
    decode p = .error .misdelimited := by
  unfold decode
  split
  · next op arg8 l1 l0 a3 a2 a1 a0 payload =>
    split
    · next h =>
      left
      have hl : payload.length ≤ 65535 := by rw [h]; exact Nat.le_of_lt_succ (ofBe16 l1 l0).isLt
      refine ⟨op, arg8, ofBe32 a3 a2 a1 a0, payload, hl, ?_, rfl⟩
      obtain ⟨h3, h2, h1, h0⟩ := byteOf32_ofBe32 a3 a2 a1 a0
      simp [be16, be32, h, h3, h2, h1, h0]
    · exact .inr rfl
  · exact .inr rfl

theorem extract_append_zero (raw : BitVec 16) :
    (0#16 ++ raw).extractLsb' 16 16 = 0#16 ∧ (0#16 ++ raw).extractLsb' 0 16 = raw := by
  constructor
  · exact BitVec.extractLsb'_append_eq_left
  · exact BitVec.extractLsb'_append_eq_right

theorem append_extract (v : Word32) (h : v.extractLsb' 16 16 = 0#16) :
    0#16 ++ v.extractLsb' 0 16 = v := by
  rw [← h]
  ext i hi
  simp only [← BitVec.getLsbD_eq_getElem, BitVec.getLsbD_append, BitVec.getLsbD_extractLsb']
  grind

/-- Decoding the fields of a command gives the command (rule R82). -/
theorem decodeFields_of_instr (i : Instr) :
    decodeFields i.opcode i.arg8 i.arg32 i.payload = .ok i := by
  cases i with
  | procframe r p =>
    cases r <;> simp [decodeFields, decodeProcframe, Instr.opcode, Instr.arg8, Instr.arg32,
      Instr.payload, extract_append_zero]
  | procnet p =>
    cases p <;> simp [decodeFields, decodeProcnet, withoutPayload, Instr.opcode, Instr.arg8,
      Instr.arg32, Instr.payload]
  | rdlc o =>
    cases o <;> simp [decodeFields, decodeRdlc, withoutPayload, Instr.opcode, Instr.arg8,
      Instr.arg32, Instr.payload]
  | _ =>
    simp [decodeFields, withoutArgs, withoutPayload, Instr.opcode, Instr.arg8, Instr.arg32,
      Instr.payload]

/-- A result of decoding that agrees with the fields of its packet: a command that has them, or an
error other than the transport error. -/
def DecodesTo (op arg8 : Byte) (arg32 : Word32) (payload : Buffer) :
    Except DecodeError Instr → Prop
  | .ok i => i.opcode = op ∧ i.arg8 = arg8 ∧ i.arg32 = arg32 ∧ i.payload = payload
  | .error e => e ≠ .misdelimited

theorem decodesTo_ite {op arg8 : Byte} {arg32 : Word32} {payload : Buffer} {p : Prop} [Decidable p]
    {x y : Except DecodeError Instr} (hx : p → DecodesTo op arg8 arg32 payload x)
    (hy : ¬p → DecodesTo op arg8 arg32 payload y) :
    DecodesTo op arg8 arg32 payload (if p then x else y) := by
  split
  · next h => exact hx h
  · next h => exact hy h

/-- What the fields of a packet decode to agrees with them (rules R82, R91, R92). -/
theorem decodesTo_decodeFields (op arg8 : Byte) (arg32 : Word32) (payload : Buffer) :
    DecodesTo op arg8 arg32 payload (decodeFields op arg8 arg32 payload) := by
  unfold decodeFields
  split <;>
    (try simp only [withoutArgs, withoutPayload, decodeProcframe, decodeProcnet, decodeRdlc]) <;>
    (repeat' (refine decodesTo_ite (fun _ => ?_) (fun _ => ?_))) <;>
    simp_all [DecodesTo, Instr.opcode, Instr.arg8, Instr.arg32, Instr.payload, append_extract]

/-- The fields of a decoded command. -/
theorem fields_of_decodeFields {op arg8 : Byte} {arg32 : Word32} {payload : Buffer} {i : Instr}
    (h : decodeFields op arg8 arg32 payload = .ok i) :
    i.opcode = op ∧ i.arg8 = arg8 ∧ i.arg32 = arg32 ∧ i.payload = payload := by
  have := decodesTo_decodeFields op arg8 arg32 payload
  rwa [h] at this

/-- No field of a packet makes it misdelimited. -/
theorem decodeFields_ne_misdelimited (op arg8 : Byte) (arg32 : Word32) (payload : Buffer) :
    decodeFields op arg8 arg32 payload ≠ .error .misdelimited := by
  intro h
  have := decodesTo_decodeFields op arg8 arg32 payload
  rw [h] at this
  exact this rfl

end Sys2Proof
end

