-- ==== Sys2Proof/Laws/Step.lean ====
section
/-! SUPPORT. What a command does and what a step does, said once: a faulted block answers FAULTED; a step
waits, resets, performs the decoded command, or refuses the packet. -/

namespace Sys2Proof.Machine

/-- Every arm of `exec` answers with the command's result at the hardware's configuration. -/
theorem exec_next (i : Instr) (s : State) :
    exec i s = .next (s.answer (perform cfg i s.blk)) := by cases i <;> rfl

/-- A faulted block performs no command (rule R263). -/
theorem perform_faulted {b : Block} (c : Cfg) (i : Instr) (h : b.fault = true) :
    perform c i b = (b, Response.faulted b.faultCause) := by
  cases i <;> exact gate_faulted h _

theorem refuseCommand_faulted {b : Block} (h : b.fault = true) :
    refuseCommand b = (b, Response.faulted b.faultCause) := gate_faulted h _

theorem refuseCommand_ready {b : Block} (h : b.fault = false) :
    refuseCommand b = (b, Response.badCmd) := gate_ready h _

/-- The codec commands on a block that is not faulted (rules R120, R262). -/
theorem codec_cases {b : Block} (minLen : Nat) (payload : Buffer) (r : Response)
    (h : b.fault = false) :
    (payload.length < minLen ∧ codec minLen payload b r = raiseFatal codecShort b) ∨
    (minLen ≤ payload.length ∧ codec minLen payload b r = (b, r)) := by
  unfold codec
  rw [gate_ready h]
  by_cases hl : payload.length < minLen
  · exact .inl ⟨hl, by simp [hl]⟩
  · exact .inr ⟨by omega, by simp [hl]⟩

/-- Every packet is a command, is refused by the block, or is not well delimited (rule R93). -/
theorem serve_cases (c : Cfg) (packet : Buffer) (b : Block) :
    (∃ i, decode packet = .ok i ∧ serve c packet b = some (perform c i b)) ∨
    (∃ e, e ≠ .misdelimited ∧ decode packet = .error e ∧
      serve c packet b = some (refuseCommand b)) ∨
    (decode packet = .error .misdelimited ∧ serve c packet b = none) := by
  unfold serve
  rcases h : decode packet with e | i
  · cases e <;> simp
  · simp

/-- Everything a step that goes on can have done. -/
theorem step_cases {s t : State} (h : step s = .next t) :
    (s.inputs = [] ∧ t = s) ∨
    (∃ rest, s.inputs = .hardwareReset :: rest ∧
      t = { blk := Block.reset cfg, inputs := rest, resp := none }) ∨
    (∃ packet rest i, s.inputs = .command packet :: rest ∧ decode packet = .ok i ∧
      t = { s with inputs := rest }.answer (perform cfg i s.blk)) ∨
    (∃ packet rest e, s.inputs = .command packet :: rest ∧ decode packet = .error e ∧
      e ≠ .misdelimited ∧ t = { s with inputs := rest }.answer (refuseCommand s.blk)) := by
  unfold step at h
  split at h
  · next hi => left; cases h; exact ⟨hi, rfl⟩
  · next rest hi => right; left; cases h; exact ⟨rest, hi, rfl⟩
  · next packet rest hi =>
    right; right
    split at h
    · next i hd =>
      left
      rw [exec_next] at h
      cases h
      exact ⟨packet, rest, i, hi, hd, rfl⟩
    · cases h
    · next e hne hd =>
      right
      cases h
      exact ⟨packet, rest, e, hi, hd, hne, rfl⟩

/-- The step on a command that decodes. -/
theorem step_command {s : State} {packet : Buffer} {rest : List HostInput} {i : Instr}
    (hi : s.inputs = .command packet :: rest) (hd : decode packet = .ok i) :
    step s = .next ({ s with inputs := rest }.answer (perform cfg i s.blk)) := by
  unfold step; simp only [hi, hd]; exact exec_next i _

/-- The step on a packet the block refuses. -/
theorem step_refused {s : State} {packet : Buffer} {rest : List HostInput} {e : DecodeError}
    (hi : s.inputs = .command packet :: rest) (hd : decode packet = .error e)
    (hne : e ≠ .misdelimited) :
    step s = .next ({ s with inputs := rest }.answer (refuseCommand s.blk)) := by
  unfold step; simp only [hi, hd]

/-- Presenting a table row's word, then stepping, runs the instruction the decoder reads from it. -/
theorem step_withFetchWord (s : State) (nbits w : Nat) {i : Instr}
    (h : decodeTableWord nbits w = some i) : step (s.withFetchWord nbits w) = exec i s := by
  have hd : decode (tablePacket nbits w) = .ok i := by
    unfold decodeTableWord at h
    split at h <;> simp_all
  rw [step_command (rest := s.inputs) rfl hd, exec_next]
  rfl

end Sys2Proof.Machine
end

