-- ==== Sys2Proof/Laws/Control.lean ====
section
/-! SUPPORT. ProtocolControl, said once: what each shared operation of `Machine/Control.lean` does to the
halves, the context, the queue and the latch; and everything `process`, `admitHeader` and `CLOCK` can do. -/

namespace Sys2Proof.Machine

/-! ### Validation (rules R194, R212) -/

/-- A frame is dropped for its length, sync pattern, type or checksum, and for nothing else. -/
theorem validate_drop_status {c : Cfg} {F : Buffer} {status : Status} {kind : Option SyncKind}
    {type : Option Byte} (h : validate c F = .drop status kind type) :
    status = .dropLength ∨ status = .dropSync ∨ status = .dropType ∨ status = .dropCheck := by
  unfold validate validateKind validateCheck at h
  grind

/-- A valid frame has the frame length. -/
theorem length_of_valid {c : Cfg} {F : Buffer} {kind : SyncKind} {type : Byte} {p : Profile}
    (h : validate c F = .valid kind type p) : F.length = c.frameLen := by
  unfold validate at h
  split at h
  · cases h
  · next hl => exact not_not.1 hl

/-- The profile of a valid frame is the voice profile or that of a type code, and its check holds. -/
theorem profile_of_valid {c : Cfg} {F : Buffer} {kind : SyncKind} {type : Byte} {p : Profile}
    (h : validate c F = .valid kind type p) :
    classify c F = some kind ∧ (p = c.voiceProfile ∨ c.profile type = some p) ∧
      checkOk c F p.check = true := by
  unfold validate validateKind validateCheck at h
  grind

/-! ### Shared operations on halves -/

@[simp] theorem half_countError (o : Origin) (k : ErrorClass) (b : Block) :
    (countError o k b).half o = { b.half o with cnt := (b.half o).cnt.countError k } := by
  simp [countError]
@[simp] theorem half_countError_other (o : Origin) (k : ErrorClass) (b : Block) :
    (countError o k b).half (other o) = b.half (other o) := by simp [countError]
@[simp] theorem countError_ctx (o : Origin) (k : ErrorClass) (b : Block) :
    (countError o k b).ctx = b.ctx := by simp [countError]
@[simp] theorem countError_q (o : Origin) (k : ErrorClass) (b : Block) :
    (countError o k b).q = b.q := by simp [countError]
@[simp] theorem countError_pend (o : Origin) (k : ErrorClass) (b : Block) :
    (countError o k b).pend = b.pend := by simp [countError]
@[simp] theorem countError_fault (o : Origin) (k : ErrorClass) (b : Block) :
    (countError o k b).fault = b.fault := by simp [countError]
@[simp] theorem countError_faultCause (o : Origin) (k : ErrorClass) (b : Block) :
    (countError o k b).faultCause = b.faultCause := by simp [countError]

@[simp] theorem half_endCall (c : Cfg) (o : Origin) (r : EndReason) (b : Block) :
    (endCall c o r b).half o = (b.half o).ended r := by cases o <;> rfl
@[simp] theorem half_endCall_other (c : Cfg) (o : Origin) (r : EndReason) (b : Block) :
    (endCall c o r b).half (other o) = b.half (other o) := by cases o <;> rfl
@[simp] theorem endCall_ctx (c : Cfg) (o : Origin) (r : EndReason) (b : Block) :
    (endCall c o r b).ctx = { b.ctx with hang := Timer.start c.hangMs } := by cases o <;> rfl
@[simp] theorem endCall_q (c : Cfg) (o : Origin) (r : EndReason) (b : Block) :
    (endCall c o r b).q = b.q := by cases o <;> rfl
@[simp] theorem endCall_pend (c : Cfg) (o : Origin) (r : EndReason) (b : Block) :
    (endCall c o r b).pend = b.pend := by cases o <;> rfl
@[simp] theorem endCall_fault (c : Cfg) (o : Origin) (r : EndReason) (b : Block) :
    (endCall c o r b).fault = b.fault := by cases o <;> rfl
@[simp] theorem endCall_faultCause (c : Cfg) (o : Origin) (r : EndReason) (b : Block) :
    (endCall c o r b).faultCause = b.faultCause := by cases o <;> rfl

@[simp] theorem half_openHalf (o : Origin) (h : HeaderIds) (b : Block) :
    (openHalf o h b).half o = { b.half o with st := .receiving, rssi := {} } := by cases o <;> rfl
@[simp] theorem half_openHalf_other (o : Origin) (h : HeaderIds) (b : Block) :
    (openHalf o h b).half (other o) = b.half (other o) := by cases o <;> rfl
@[simp] theorem openHalf_ctx (o : Origin) (h : HeaderIds) (b : Block) :
    (openHalf o h b).ctx = openContext o h := by cases o <;> rfl
@[simp] theorem openHalf_q (o : Origin) (h : HeaderIds) (b : Block) : (openHalf o h b).q = b.q := by
  cases o <;> rfl
@[simp] theorem openHalf_pend (o : Origin) (h : HeaderIds) (b : Block) :
    (openHalf o h b).pend = b.pend := by cases o <;> rfl
@[simp] theorem openHalf_fault (o : Origin) (h : HeaderIds) (b : Block) :
    (openHalf o h b).fault = b.fault := by cases o <;> rfl
@[simp] theorem openHalf_faultCause (o : Origin) (h : HeaderIds) (b : Block) :
    (openHalf o h b).faultCause = b.faultCause := by cases o <;> rfl

/-! ### Delivery (rules R41, R229) -/

/-- Everything `enqueue` can do. -/
theorem enqueue_cases (c : Cfg) (o : Origin) (F : Buffer) (b : Block) :
    (b.q.length ≠ c.queueDepth ∧ enqueue c o F b = { b with q := b.q ++ [⟨o, F⟩] }) ∨
    (b.q.length = c.queueDepth ∧ enqueue c o F b = { b with pend := ⟨true, o, F⟩ }) := by
  unfold enqueue qPush
  by_cases h : b.q.length = c.queueDepth
  · exact .inr ⟨h, by simp [h]⟩
  · exact .inl ⟨h, by simp [h]⟩

@[simp] theorem half_enqueue (c : Cfg) (o o' : Origin) (F : Buffer) (b : Block) :
    (enqueue c o F b).half o' = b.half o' := by
  rcases enqueue_cases c o F b with ⟨_, h⟩ | ⟨_, h⟩ <;> simp [h]
@[simp] theorem enqueue_ctx (c : Cfg) (o : Origin) (F : Buffer) (b : Block) :
    (enqueue c o F b).ctx = b.ctx := by
  rcases enqueue_cases c o F b with ⟨_, h⟩ | ⟨_, h⟩ <;> simp [h]
@[simp] theorem enqueue_fault (c : Cfg) (o : Origin) (F : Buffer) (b : Block) :
    (enqueue c o F b).fault = b.fault := by
  rcases enqueue_cases c o F b with ⟨_, h⟩ | ⟨_, h⟩ <;> simp [h]
@[simp] theorem enqueue_faultCause (c : Cfg) (o : Origin) (F : Buffer) (b : Block) :
    (enqueue c o F b).faultCause = b.faultCause := by
  rcases enqueue_cases c o F b with ⟨_, h⟩ | ⟨_, h⟩ <;> simp [h]

/-- With no frame pending, an enqueued frame is the last to be delivered. -/
theorem undelivered_enqueue {c : Cfg} {o : Origin} {F : Buffer} {b : Block}
    (h : b.pend.valid = false) : (enqueue c o F b).undelivered = b.undelivered ++ [⟨o, F⟩] := by
  rcases enqueue_cases c o F b with ⟨_, e⟩ | ⟨_, e⟩ <;> simp [e, Block.undelivered, h]

/-- The frames awaiting delivery depend on the queue and the pending slot only. -/
theorem undelivered_congr {b b' : Block} (hq : b'.q = b.q) (hp : b'.pend = b.pend) :
    b'.undelivered = b.undelivered := by simp [Block.undelivered, hq, hp]

/-- The retry of the pending push (rule R241) delays nothing and reorders nothing. -/
theorem undelivered_retryPending (c : Cfg) (b : Block) :
    (retryPending c b).undelivered = b.undelivered := by
  unfold retryPending qPush
  by_cases hp : b.pend.valid = true <;> by_cases hq : b.q.length = c.queueDepth <;>
    simp [hp, hq, Block.undelivered]

/-- Everything the retry can do. -/
theorem retryPending_cases (c : Cfg) (b : Block) :
    ((b.pend.valid = false ∨ b.q.length = c.queueDepth) ∧ retryPending c b = b) ∨
    (b.pend.valid = true ∧ b.q.length ≠ c.queueDepth ∧ retryPending c b =
      { b with q := b.q ++ [⟨b.pend.origin, b.pend.bytes⟩], pend := { bytes := zeros c.frameLen } }) := by
  unfold retryPending qPush
  by_cases hp : b.pend.valid = true <;> by_cases hq : b.q.length = c.queueDepth <;> simp [hp, hq]

/-! ### Arbitration (rule R221) -/

/-- Everything arbitration can decide, and when. -/
theorem arbitrate_cases (c : Cfg) (o : Origin) (h : HeaderIds) (b : Block) :
    ((b.half (other o)).st ≠ .idle ∧ b.ctx.sameDst h.dst h.grp = true ∧
      arbitrate c o h b = .duplicate) ∨
    ((b.half (other o)).st ≠ .idle ∧ b.ctx.sameDst h.dst h.grp = false ∧ favoured c o = true ∧
      arbitrate c o h b = .preempt) ∨
    ((b.half (other o)).st ≠ .idle ∧ b.ctx.sameDst h.dst h.grp = false ∧ favoured c o = false ∧
      arbitrate c o h b = .reject) ∨
    ((b.half (other o)).st = .idle ∧ arbitrate c o h b = .hangReject ∧
      (b.ctx.valid = true ∧ b.ctx.hang.ts = .running ∧ o ≠ b.ctx.owner ∧
        b.ctx.sameDst h.dst h.grp = false ∧ favoured c o = false)) ∨
    ((b.half (other o)).st = .idle ∧ arbitrate c o h b = .clear ∧
      ¬ (b.ctx.valid = true ∧ b.ctx.hang.ts = .running ∧ o ≠ b.ctx.owner ∧
        b.ctx.sameDst h.dst h.grp = false ∧ favoured c o = false)) := by
  unfold arbitrate
  by_cases h1 : (b.half (other o)).st = .idle
  · rw [if_neg (by simp [h1])]
    split <;> simp_all
  · rw [if_pos h1]
    rcases b.ctx.sameDst h.dst h.grp <;> rcases favoured c o <;> simp [h1]

/-- At most one origin is favoured. -/
theorem favoured_other {c : Cfg} {o : Origin} (h : favoured c o = true) :
    favoured c (other o) = false := by
  revert h
  unfold favoured
  rcases c.arbPolicy <;> cases o <;> simp [other]

/-- Everything `admitHeader` can do: a refusal that counts an error of a class and answers its status and
event, or a call that opens, after the other origin's call was pre-empted or at once. -/
theorem admitHeader_cases (c : Cfg) (o : Origin) (F : Buffer) (p : Profile) (rssi : Option (BitVec 16))
    (h : HeaderIds) (events : List Event) (b : Block) :
    (∃ k status code, status ∈ [.dropId, .arbDuplicate, .arbReject, .hangReject] ∧
      admitHeader c o F p rssi h events b
        = (countError o k b, rejected status (events ++ [headerEvent code o h]))) ∨
    (idsOk c h = true ∧ (b.half (other o)).st ≠ .idle ∧ favoured c o = true ∧
      admitHeader c o F p rssi h events b = openCall c o F p rssi h
        (events ++ endEvents (other o) .preempted b) (endCall c (other o) .preempted b)) ∨
    (idsOk c h = true ∧ (b.half (other o)).st = .idle ∧
      admitHeader c o F p rssi h events b = openCall c o F p rssi h events b) := by
  unfold admitHeader
  by_cases hi : idsOk c h = true
  · rw [if_pos hi]
    rcases arbitrate_cases c o h b with ⟨_, _, e⟩ | ⟨h1, _, h2, e⟩ | ⟨_, _, _, e⟩ | ⟨_, e, _⟩ | ⟨h1, e, _⟩ <;>
      simp only [e]
    · exact .inl ⟨_, _, _, by simp, rfl⟩
    · exact .inr (.inl ⟨hi, h1, h2, trivial⟩)
    · exact .inl ⟨_, _, _, by simp, rfl⟩
    · exact .inl ⟨_, _, _, by simp, rfl⟩
    · exact .inr (.inr ⟨hi, h1, trivial⟩)
  · rw [if_neg hi]
    exact .inl ⟨_, _, _, by simp, rfl⟩

/-- Everything `process` can do, up to the role of a valid frame. -/
theorem process_cases (c : Cfg) (o : Origin) (F : Buffer) (rssi : Option (BitVec 16)) (b : Block) :
    (b.pend.valid = true ∧
      process c o F rssi b = ({ b with cntBp := satInc b.cntBp }, rejected .backpressure [])) ∨
    (b.pend.valid = false ∧ ∃ status kind type, validate c F = .drop status kind type ∧
      process c o F rssi b = (countError o (dropClass status) b, rejected status [])) ∨
    (b.pend.valid = false ∧ ∃ kind type p, validate c F = .valid kind type p ∧
      (p.role = .payload ∧ process c o F rssi b = processPayload c o F p rssi b ∨
       p.role = .terminator ∧ process c o F rssi b = processTerminator c o F p rssi b ∨
       p.role = .header ∧ process c o F rssi b = processHeader c o F p rssi b)) := by
  unfold process
  by_cases hp : b.pend.valid = true
  · simp [hp]
  · simp only [Bool.not_eq_true] at hp
    rcases hv : validate c F with ⟨status, kind, type⟩ | ⟨kind, type, p⟩
    · simp [hp]
    · rcases hr : p.role <;> simp [hp, hr]

/-- A valid frame is processed by its role. -/
theorem process_valid {c : Cfg} {o : Origin} {F : Buffer} {rssi : Option (BitVec 16)} {b : Block}
    {kind : SyncKind} {type : Byte} {p : Profile} (hp : b.pend.valid = false)
    (hv : validate c F = .valid kind type p) :
    process c o F rssi b = match p.role with
      | .payload => processPayload c o F p rssi b
      | .terminator => processTerminator c o F p rssi b
      | .header => processHeader c o F p rssi b := by
  unfold process; simp only [hp, hv]; rcases p.role <;> rfl

/-! ### The fault latch -/

theorem admitHeader_latch (c : Cfg) (o : Origin) (F : Buffer) (p : Profile) (rssi : Option (BitVec 16))
    (h : HeaderIds) (events : List Event) (b : Block) :
    (admitHeader c o F p rssi h events b).1.fault = b.fault ∧
      (admitHeader c o F p rssi h events b).1.faultCause = b.faultCause := by
  rcases admitHeader_cases c o F p rssi h events b with ⟨_, _, _, _, e⟩ | ⟨_, _, _, e⟩ | ⟨_, _, e⟩ <;>
    simp [e, openCall, acceptQueued]

/-- No frame changes the fault latch. -/
theorem process_latch (c : Cfg) (o : Origin) (F : Buffer) (rssi : Option (BitVec 16)) (b : Block) :
    (process c o F rssi b).1.fault = b.fault ∧
      (process c o F rssi b).1.faultCause = b.faultCause := by
  rcases process_cases c o F rssi b with ⟨_, e⟩ | ⟨_, _, _, _, _, e⟩ |
    ⟨_, _, _, p, _, ⟨_, e⟩ | ⟨_, e⟩ | ⟨_, e⟩⟩ <;> rw [e]
  · simp
  · simp
  · unfold processPayload; split <;> simp [acceptQueued, setState]
  · unfold processTerminator
    split
    · simp
    · split <;> simp [terminate, acceptUnqueued]
  · unfold processHeader
    simp only
    split
    · exact admitHeader_latch ..
    · split
      · simp [repeatHeader, acceptQueued, setState]
      · simpa using admitHeader_latch c o F p rssi (c.hdrOf F) (endEvents o .forced b)
          (endCall c o .forced b)

/-! ### `CLOCK` (rules R240 to R245) -/

@[simp] theorem half_retryPending (c : Cfg) (b : Block) (o : Origin) :
    (retryPending c b).half o = b.half o := by
  rcases retryPending_cases c b with ⟨_, e⟩ | ⟨_, _, e⟩ <;> rw [e] <;> cases o <;> rfl
@[simp] theorem retryPending_rf (c : Cfg) (b : Block) : (retryPending c b).rf = b.rf :=
  half_retryPending c b .rf
@[simp] theorem retryPending_net (c : Cfg) (b : Block) : (retryPending c b).net = b.net :=
  half_retryPending c b .net
@[simp] theorem retryPending_ctx (c : Cfg) (b : Block) : (retryPending c b).ctx = b.ctx := by
  rcases retryPending_cases c b with ⟨_, e⟩ | ⟨_, _, e⟩ <;> rw [e]
@[simp] theorem retryPending_fault (c : Cfg) (b : Block) : (retryPending c b).fault = b.fault := by
  rcases retryPending_cases c b with ⟨_, e⟩ | ⟨_, _, e⟩ <;> rw [e]
@[simp] theorem retryPending_faultCause (c : Cfg) (b : Block) :
    (retryPending c b).faultCause = b.faultCause := by
  rcases retryPending_cases c b with ⟨_, e⟩ | ⟨_, _, e⟩ <;> rw [e]

@[simp] theorem half_advanceTimers (ms : Word32) (b : Block) (o : Origin) :
    (advanceTimers ms b).half o = { b.half o with tmo := (b.half o).tmo.advance ms } := by
  cases o <;> rfl
@[simp] theorem advanceTimers_rf (ms : Word32) (b : Block) :
    (advanceTimers ms b).rf = { b.rf with tmo := b.rf.tmo.advance ms } := rfl
@[simp] theorem advanceTimers_net (ms : Word32) (b : Block) :
    (advanceTimers ms b).net = { b.net with tmo := b.net.tmo.advance ms } := rfl
@[simp] theorem advanceTimers_ctx (ms : Word32) (b : Block) :
    (advanceTimers ms b).ctx = { b.ctx with hang := b.ctx.hang.advance ms } := rfl
@[simp] theorem advanceTimers_q (ms : Word32) (b : Block) : (advanceTimers ms b).q = b.q := rfl
@[simp] theorem advanceTimers_pend (ms : Word32) (b : Block) : (advanceTimers ms b).pend = b.pend :=
  rfl
@[simp] theorem advanceTimers_fault (ms : Word32) (b : Block) :
    (advanceTimers ms b).fault = b.fault := rfl
@[simp] theorem advanceTimers_faultCause (ms : Word32) (b : Block) :
    (advanceTimers ms b).faultCause = b.faultCause := rfl

/-- Everything the timeout step of an origin can do (rules R243, R244). -/
theorem expireHalf_cases (c : Cfg) (o : Origin) (b : Block) :
    ((b.half o).tmo.ts = .expired ∧
      expireHalf c o b = (endCall c o .timeout b, endEvents o .timeout b)) ∨
    ((b.half o).tmo.ts ≠ .expired ∧ expireHalf c o b = (b, [])) := by
  unfold expireHalf Timer.expired
  by_cases h : (b.half o).tmo.ts = .expired <;> simp [h]

/-- Everything the hang step can do (rule R245). -/
theorem expireHang_cases (b : Block) :
    (b.ctx.hang.ts = .expired ∧ expireHang b =
      ({ b with ctx := {} }, [contextEvent .hangExpired b.ctx.owner none b.ctx])) ∨
    (b.ctx.hang.ts ≠ .expired ∧ expireHang b = (b, [])) := by
  unfold expireHang Timer.expired
  by_cases h : b.ctx.hang.ts = .expired <;> simp [h]

/-- Two blocks with the same latch, backpressure counter and frames awaiting delivery. -/
def SameDelivery (b b' : Block) : Prop :=
  b'.fault = b.fault ∧ b'.faultCause = b.faultCause ∧ b'.cntBp = b.cntBp ∧
    b'.undelivered = b.undelivered

theorem SameDelivery.trans {b b' b'' : Block} (h : SameDelivery b b') (h' : SameDelivery b' b'') :
    SameDelivery b b'' :=
  ⟨h'.1.trans h.1, h'.2.1.trans h.2.1, h'.2.2.1.trans h.2.2.1, h'.2.2.2.trans h.2.2.2⟩

theorem sameDelivery_retryPending (c : Cfg) (b : Block) : SameDelivery b (retryPending c b) := by
  refine ⟨by simp, by simp, ?_, undelivered_retryPending c b⟩
  rcases retryPending_cases c b with ⟨_, e⟩ | ⟨_, _, e⟩ <;> rw [e]

theorem sameDelivery_expireHalf (c : Cfg) (o : Origin) (b : Block) :
    SameDelivery b (expireHalf c o b).1 := by
  rcases expireHalf_cases c o b with ⟨_, e⟩ | ⟨_, e⟩ <;> rw [e]
  · cases o <;> exact ⟨rfl, rfl, rfl, rfl⟩
  · exact ⟨rfl, rfl, rfl, rfl⟩

theorem sameDelivery_expireHang (b : Block) : SameDelivery b (expireHang b).1 := by
  rcases expireHang_cases b with ⟨_, e⟩ | ⟨_, e⟩ <;> rw [e] <;> exact ⟨rfl, rfl, rfl, rfl⟩

/-- A `CLOCK` leaves the latch, and delays and reorders no frame. -/
theorem sameDelivery_tick (c : Cfg) (ms : Word32) (b : Block) : SameDelivery b (tick c ms b).1 :=
  (sameDelivery_retryPending c b).trans <|
    (show SameDelivery _ (advanceTimers ms (retryPending c b)) from ⟨rfl, rfl, rfl, rfl⟩).trans <|
    (sameDelivery_expireHalf c .rf _).trans <|
    (sameDelivery_expireHalf c .net _).trans <| sameDelivery_expireHang _

end Sys2Proof.Machine
end

