-- ==== Sys2Proof/Laws/Crc.lean ====
section
/-! SUPPORT. The checksum registers as linear maps: a CRC shift distributes over exclusive or and, for an
odd polynomial, loses nothing; trailers and their lengths; the five-bit groups as bytes. -/

namespace Sys2Proof.Machine

theorem crcBit_xor {W : Nat} (P a b : BitVec W) : crcBit P (a ^^^ b) = crcBit P a ^^^ crcBit P b := by
  unfold crcBit
  rw [BitVec.msb_xor, BitVec.shiftLeft_xor_distrib]
  cases a.msb <;> cases b.msb <;> simp
  · ac_rfl
  · ac_rfl
  · rw [show a <<< 1 ^^^ P ^^^ (b <<< 1 ^^^ P) = a <<< 1 ^^^ b <<< 1 ^^^ (P ^^^ P) by ac_rfl]
    simp

theorem crcBit_zero {W : Nat} (P : BitVec W) : crcBit P 0#W = 0#W := by simp [crcBit]

theorem crcShift_xor {W : Nat} (P : BitVec W) (n : Nat) (a b : BitVec W) :
    crcShift P n (a ^^^ b) = crcShift P n a ^^^ crcShift P n b := by
  induction n generalizing a b with
  | zero => rfl
  | succ n ih => simp [crcShift, crcBit_xor, ih]

theorem crcShift_zero {W : Nat} (P : BitVec W) (n : Nat) : crcShift P n 0#W = 0#W := by
  induction n with
  | zero => rfl
  | succ n ih => simp [crcShift, crcBit_zero, ih]

/-- With an odd polynomial a shift loses nothing. -/
theorem crcBit_eq_zero {W : Nat} {P c : BitVec W} (hP : P.getLsbD 0 = true)
    (h : crcBit P c = 0#W) : c = 0#W := by
  have hW : 0 < W := by
    rcases Nat.eq_zero_or_pos W with rfl | hW
    · simp at hP
    · exact hW
  unfold crcBit at h
  split at h
  · have := congrArg (fun v => v.getLsbD 0) h
    rw [BitVec.getLsbD_xor, hP] at this
    simp at this
  · next hm =>
    apply BitVec.eq_of_getLsbD_eq
    intro i hi
    rcases Nat.lt_or_ge (i + 1) W with hlt | hge
    · have := congrArg (fun v => v.getLsbD (i + 1)) h
      simpa [hlt, BitVec.getLsbD_eq_getElem hi] using this
    · have : i = W - 1 := by omega
      subst this
      simpa [BitVec.msb_eq_getLsbD_last] using hm

theorem crcShift_eq_zero {W : Nat} {P : BitVec W} (hP : P.getLsbD 0 = true) {n : Nat}
    {c : BitVec W} (h : crcShift P n c = 0#W) : c = 0#W := by
  induction n generalizing c with
  | zero => exact h
  | succ n ih => exact crcBit_eq_zero hP (ih h)

theorem crcUpdate_xor {W : Nat} (P c c' : BitVec W) (b b' : Byte) :
    crcUpdate P c b ^^^ crcUpdate P c' b'
      = crcShift P 8 ((c ^^^ c') ^^^ ((b ^^^ b').setWidth W <<< (W - 8))) := by
  unfold crcUpdate
  rw [← crcShift_xor, BitVec.setWidth_xor, BitVec.shiftLeft_xor_distrib]
  congr 1
  ac_rfl

/-- Registers that differ still differ after the same bytes. -/
theorem crcRun_ne {W : Nat} {P : BitVec W} (hP : P.getLsbD 0 = true) (B : Buffer)
    {c c' : BitVec W} (h : c ≠ c') : crcRun P c B ≠ crcRun P c' B := by
  induction B generalizing c c' with
  | nil => exact h
  | cons b B ih =>
    apply ih
    intro he
    have hx := crcUpdate_xor P c c' b b
    rw [he] at hx
    simp at hx
    have := crcShift_eq_zero hP hx.symm
    exact h (by
      have h2 := congrArg (· ^^^ c') this
      simpa [BitVec.xor_assoc] using h2)

theorem crcRun_append {W : Nat} (P c : BitVec W) (A B : Buffer) :
    crcRun P c (A ++ B) = crcRun P (crcRun P c A) B := by simp [crcRun, List.foldl_append]

/-- The table-driven and the bit-serial register agree on a byte that enters an empty register. -/
theorem crcTable_zero {W : Nat} (P : BitVec W) : crcTable P 0#8 = 0#W := by
  simp [crcTable, crcUpdate, crcShift_zero]

/-! ### Trailers (rules R131, R134, R141) -/

@[simp] theorem length_trailer16a (v : BitVec 16) : (trailer16a v).length = 2 := rfl
@[simp] theorem length_trailer16b (v : BitVec 16) : (trailer16b v).length = 2 := rfl
@[simp] theorem length_trailer32 (f : Bool) (v : Word32) : (trailer32 f v).length = 4 := by
  cases f <;> rfl

/-- A buffer keeps its length when its trailer is written. -/
theorem length_withTrailer {B t : Buffer} (h : t.length ≤ B.length) :
    (withTrailer B t).length = B.length := by
  simp [withTrailer]; omega

/-- What was written as the trailer is found there, and the covered bytes are as before. -/
theorem trailerMatches_withTrailer (B t : Buffer) :
    trailerMatches (withTrailer B t) t = true := by
  simp [trailerMatches, withTrailer]

theorem take_withTrailer (B t : Buffer) :
    (withTrailer B t).take ((withTrailer B t).length - t.length) = B.take (B.length - t.length) := by
  simp [withTrailer]

/-! ### The five-bit checksum (rule R121) -/

/-- A group of the five-bit checksum is a byte of the buffer. -/
theorem fivebitGroup_eq (B : Buffer) (k : Nat) : fivebitGroup B k = (B.getD k 0#8).toNat := by
  have h : ∀ j < 8, bitAt B (8 * k + j) = (B.getD k 0#8).getLsbD (7 - j) := by
    intro j hj
    unfold bitAt
    rw [show (8 * k + j) / 8 = k by omega, show (8 * k + j) % 8 = j by omega]
  generalize B.getD k 0#8 = b at h
  have e : ∀ b : Byte, (List.range 8).foldl (fun v j => 2 * v + (b.getLsbD (7 - j)).toNat) 0
      = b.toNat := by decide +kernel
  rw [← e b]
  unfold fivebitGroup
  simp only [List.range, List.range.loop, List.foldl]
  rw [h 0 (by omega), h 1 (by omega), h 2 (by omega), h 3 (by omega), h 4 (by omega),
    h 5 (by omega), h 6 (by omega), h 7 (by omega)]

/-- The five-bit value is below 31. -/
theorem fivebitValue_lt (B : Buffer) : fivebitValue B < 31 := Nat.mod_lt _ (by decide)

end Sys2Proof.Machine
end

