-- ==== Sys2Proof/Laws/Invariant.lean ====
section
/-! SUPPORT. The good states of `Safety.lean` under the shared operations of ProtocolControl: counting,
delivery, the end of a call, a change of the call's state or source, and the retry of a pending frame each
keep the block good. -/

namespace Sys2Proof.Machine

variable {c : Cfg} {b : Block} {o : Origin}

/-- While a call is open, the other half is Idle (rule R28). -/
theorem Block.Invariant.other_idle (hi : b.Invariant c) (h : (b.half o).st ≠ .idle) :
    (b.half (other o)).st = .idle := by
  have := hi.one_owner
  cases o <;> simp only [other, Block.half] at * <;> tauto

/-- While a call is open, the hang timer is stopped (rule R30). -/
theorem Block.Invariant.hang_stopped (hi : b.Invariant c) (h : (b.half o).st ≠ .idle) :
    b.ctx.hang.ts = .stopped := by
  rw [hi.hang, if_neg]
  cases o <;> simp only [Block.half] at h <;> simp [h]

/-- The timer of an open call runs (rule R30). -/
theorem Block.Invariant.timer_running (hi : b.Invariant c) (h : (b.half o).st ≠ .idle) :
    (b.half o).tmo.ts = .running := by rw [(hi.halves o).timer, if_neg h]

/-- The timer of an Idle half is stopped (rule R30). -/
theorem Block.Invariant.timer_stopped (hi : b.Invariant c) (h : (b.half o).st = .idle) :
    (b.half o).tmo.ts = .stopped := by rw [(hi.halves o).timer, if_pos h]

/-- A block is good when it differs from a good one only in one half, which is good, open or Idle as
before, and without samples if it is the network's. -/
theorem Block.Invariant.setHalf (hi : b.Invariant c) {h : Half} (hh : h.Invariant c o)
    (hs : h.st = .idle ↔ (b.half o).st = .idle) (hn : o = .net → h.rssi.count = 0#32) :
    (b.setHalf o h).Invariant c where
  latch := by simpa using hi.latch
  halves := by
    intro o'
    rcases eq_or_eq_other o o' with rfl | rfl
    · rw [Block.half_setHalf]; exact hh
    · rw [Block.half_setHalf_other]; exact hi.halves _
  one_owner := by
    rcases hi.one_owner with h' | h' <;> cases o <;> simp_all
  owner_context := by
    intro o' h'
    rw [Block.setHalf_ctx]
    apply hi.owner_context o'
    rcases eq_or_eq_other o o' with rfl | rfl
    · rw [Block.half_setHalf] at h'; exact fun e => h' (hs.2 e)
    · simpa using h'
  hang := by
    have := hi.hang
    cases o <;> simp_all
  hang_within := by simpa using hi.hang_within
  context_clear := by simpa using hi.context_clear
  ids := by simpa using hi.ids
  net_rssi := by
    cases o
    · exact hi.net_rssi
    · exact hn rfl
  queue_bound := by simpa using hi.queue_bound
  queue_frames := by simpa using hi.queue_frames
  pend_frame := by simpa using hi.pend_frame
  pend_clear := by simpa using hi.pend_clear

/-- The counters of a half are free (rule R33). -/
theorem Block.Invariant.setCounters (hi : b.Invariant c) (o : Origin) (cnt : Counters) :
    (b.setHalf o { b.half o with cnt := cnt }).Invariant c :=
  hi.setHalf { hi.halves o with } Iff.rfl (by rintro rfl; exact hi.net_rssi)

theorem invariant_countError (hi : b.Invariant c) (o : Origin) (k : ErrorClass) :
    (countError o k b).Invariant c := hi.setCounters o _

/-- An open call may change its state to Active (rules R214, R217). -/
theorem invariant_setActive (hi : b.Invariant c) (h : (b.half o).st ≠ .idle) :
    (setState o .active b).Invariant c :=
  hi.setHalf
    { hi.halves o with not_ending := by simp, timer := by simp [hi.timer_running h] }
    (by simp [h]) (by rintro rfl; exact hi.net_rssi)

/-- The source of a valid context may change (rule R217). -/
theorem invariant_setSource (hi : b.Invariant c) (hv : b.ctx.valid = true) {src : Id}
    (hs : src.toNat < 2 ^ c.idW) : { b with ctx := { b.ctx with src := src } }.Invariant c :=
  { hi with
    halves := fun o' => by cases o' <;> exact hi.halves _
    owner_context := fun o' h => hi.owner_context o' (by cases o' <;> exact h)
    context_clear := by simp [hv]
    ids := ⟨hi.ids.1, hs⟩ }

/-- A whole frame may be enqueued (rules R38, R229). -/
theorem invariant_enqueue (hi : b.Invariant c) (o : Origin) {F : Buffer}
    (hF : F.length = c.frameLen) : (enqueue c o F b).Invariant c := by
  rcases enqueue_cases c o F b with ⟨h, e⟩ | ⟨h, e⟩ <;> rw [e]
  · exact { hi with
      halves := fun o' => by cases o' <;> exact hi.halves _
      owner_context := fun o' h => hi.owner_context o' (by cases o' <;> exact h)
      queue_bound := by have := hi.queue_bound; simp; omega
      queue_frames := by
        intro e he
        simp at he
        rcases he with he | rfl
        · exact hi.queue_frames e he
        · exact hF }
  · exact { hi with
      halves := fun o' => by cases o' <;> exact hi.halves _
      owner_context := fun o' h => hi.owner_context o' (by cases o' <;> exact h)
      pend_frame := hF
      pend_clear := by simp }

/-- An open call may end (rules R30, R219). -/
theorem invariant_endCall (hi : b.Invariant c) (reason : EndReason) (h : (b.half o).st ≠ .idle) :
    (endCall c o reason b).Invariant c := by
  have hv := (hi.owner_context o h).1
  have both : (endCall c o reason b).rf.st = .idle ∧ (endCall c o reason b).net.st = .idle := by
    have h2 := hi.other_idle h
    cases o <;> exact ⟨by first | exact h2 | rfl, by first | exact h2 | rfl⟩
  refine
    { latch := by simpa using hi.latch
      halves := ?_
      one_owner := .inl both.1
      owner_context := ?_
      hang := ?_
      hang_within := ?_
      context_clear := ?_
      ids := by simpa using hi.ids
      net_rssi := by cases o <;> exact hi.net_rssi
      queue_bound := by simpa using hi.queue_bound
      queue_frames := by simpa using hi.queue_frames
      pend_frame := by simpa using hi.pend_frame
      pend_clear := by simpa using hi.pend_clear }
  · intro o'
    rcases eq_or_eq_other o o' with rfl | rfl
    · rw [half_endCall]
      exact { hi.halves o' with
        not_ending := by simp [Half.ended]
        timer := by simp [Half.ended]
        timer_within := Timer.within_stop _ }
    · rw [half_endCall_other]; exact hi.halves _
  · intro o' h'
    cases o' <;> simp [both] at h'
  · rw [endCall_ctx, if_pos ⟨hv, both⟩]; rfl
  · rw [endCall_ctx]; exact Timer.within_start _
  · rw [endCall_ctx]; simp [hv]

/-- The retry of a pending frame keeps the block good (rule R241). -/
theorem invariant_retryPending (hi : b.Invariant c) : (retryPending c b).Invariant c := by
  rcases retryPending_cases c b with ⟨_, e⟩ | ⟨_, h, e⟩ <;> rw [e]
  · exact hi
  · exact { hi with
      halves := fun o' => by cases o' <;> exact hi.halves _
      owner_context := fun o' h => hi.owner_context o' (by cases o' <;> exact h)
      queue_bound := by have := hi.queue_bound; simp; omega
      queue_frames := by
        intro e he
        simp at he
        rcases he with he | rfl
        · exact hi.queue_frames e he
        · exact hi.pend_frame
      pend_frame := by simp [zeros]
      pend_clear := fun _ => rfl }

end Sys2Proof.Machine
end

