-- ==== Sys2Proof/Laws/PerInstr.lean ====
section
/-! SUPPORT. Statements about every command as syntax, one lemma per command. -/

namespace Sys2Proof.Laws.EncodeWellDelimited

open Sys2Proof Sys2Proof.Machine

/-- The packet of a well-formed command is well delimited (rules R80, R81): it has eight bytes and its
payload, and its `LEN` field, most significant byte first, is the payload's length. -/
def Statement (i : Instr) : Prop :=
  i.wellFormed = true → (encode i).length = 8 + i.payload.length ∧
    (ofBe16 ((encode i).getD 2 0) ((encode i).getD 3 0)).toNat = i.payload.length ∧
    (encode i).getD 0 0 = i.opcode

/-- The layout of the packet gives it for every command at once. -/
theorem of_layout (i : Instr) : Statement i := by
  intro h
  have hl : i.payload.length ≤ 65535 := of_decide_eq_true h
  refine ⟨?_, ?_, rfl⟩
  · simp [encode, be16, be32]; omega
  · have : ofBe16 ((encode i).getD 2 0) ((encode i).getD 3 0) = BitVec.ofNat 16 i.payload.length := by
      simp [encode, be16, be32]
    rw [this, BitVec.toNat_ofNat]
    omega

theorem chk5 (e : Byte) (p : Buffer) : Statement (.chk5 e p) := of_layout _
theorem enc5 (p : Buffer) : Statement (.enc5 p) := of_layout _
theorem chk16a (p : Buffer) : Statement (.chk16a p) := of_layout _
theorem add16a (p : Buffer) : Statement (.add16a p) := of_layout _
theorem chk16b (p : Buffer) : Statement (.chk16b p) := of_layout _
theorem add16b (p : Buffer) : Statement (.add16b p) := of_layout _
theorem chk32 (p : Buffer) : Statement (.chk32 p) := of_layout _
theorem add32 (p : Buffer) : Statement (.add32 p) := of_layout _
theorem crc8 (p : Buffer) : Statement (.crc8 p) := of_layout _
theorem crc9 (p : Buffer) : Statement (.crc9 p) := of_layout _
theorem sync (p : Buffer) : Statement (.sync p) := of_layout _
theorem validate (p : Buffer) : Statement (.validate p) := of_layout _
theorem procframe (r : Option (BitVec 16)) (p : Buffer) : Statement (.procframe r p) := of_layout _
theorem procnet (p : Option Buffer) : Statement (.procnet p) := of_layout _
theorem getframe : Statement .getframe := of_layout _
theorem clock (ms : Word32) : Statement (.clock ms) := of_layout _
theorem isbusy : Statement .isbusy := of_layout _
theorem reset : Statement .reset := of_layout _
theorem rdstat (sel : Byte) : Statement (.rdstat sel) := of_layout _
theorem rdlc (o : Origin) : Statement (.rdlc o) := of_layout _

end Sys2Proof.Laws.EncodeWellDelimited
end

