-- ==== Sys2Proof/Tests/Slice0.lean ====
section
/-! SUPPORT. Tests. Expected packets are those of the test-vector files (`95_test_vectors.md`,
`96_test_vectors_codec.md`, `97_test_vectors_control.md`), under their test configuration T1; words of
instructions are written out from the encoding of `30_encoding.md` rules R81, R82 and R86. The witnesses
show, for each obligation with hypotheses, concrete data that meets them all. -/

namespace Sys2Proof.Tests

open Sys2Proof Sys2Proof.Machine Sys2Proof.Spec

/-! ### WellFormed -/

/-- The smoke test of the one check of `WellFormed.lean`: a payload of 65536 bytes does not fit `LEN`. -/
theorem test_payload_too_long_is_ill_formed :
    (Instr.validate (List.replicate 65536 0)).wellFormed = false := by
  rw [Instr.wellFormed, Instr.payload, List.length_replicate]; decide

/-- The longest payload fits. -/
theorem test_longest_payload_is_well_formed :
    (Instr.validate (List.replicate 65535 0)).wellFormed = true := by
  rw [Instr.wellFormed, Instr.payload, List.length_replicate]; decide

/-! ### The test configuration T1 (`95_test_vectors.md`, section 2) -/

/-- Role HEADER, `CCITT16_V2(2, 14)`. -/
def headerProfile : Profile := ⟨.header, .ccitt16v2 2 14, true, true⟩
/-- Role TERMINATOR, `CCITT16_V2(2, 14)`. -/
def terminatorProfile : Profile := ⟨.terminator, .ccitt16v2 2 14, true, false⟩
/-- Role PAYLOAD, `CRC32(2, 14)`. -/
def dataProfile : Profile := ⟨.payload, .crc32 2 14, false, false⟩

/-- T1. -/
def T1 : Cfg where
  table8 := fun i => 7#8 * i + 3#8
  table9 := fun i => 0x100#16 ||| (5#8 * i + 1#8).setWidth 16
  frameLen := 16
  syncOff := 0
  syncW := 2
  syncMask := [0xFF, 0xF0]
  syncTable := [([0xA5, 0x50], ⟨.data, .bs⟩), ([0xA5, 0xA0], ⟨.voice, .bs⟩),
    ([0x5A, 0x50], ⟨.data, .ms⟩), ([0x5A, 0xA0], ⟨.voice, .ms⟩)]
  typeOf := fun F => F.getD 2 0
  profile := fun t =>
    if t = 1#8 then some headerProfile else if t = 2#8 then some terminatorProfile
    else if t = 3#8 then some dataProfile else none
  hdrOf := fun F => ⟨ofBe32 0 (F.getD 4 0) (F.getD 5 0) (F.getD 6 0),
    ofBe32 0 (F.getD 7 0) (F.getD 8 0) (F.getD 9 0), (F.getD 3 0).getLsbD 0⟩
  lcOf := fun F => slice F 10 4
  lcLen := 4
  idW := 24
  ridValid := fun id => id != 0
  tgValid := fun id => id != 0 && id != 666#32
  rssiMap := fun r => -r
  rfTimeoutMs := 1000
  netTimeoutMs := 2000
  hangMs := 5000
  queueDepth := 4

/-- T1 with the two kinds of check that it does not use: the voice profile checks five bits, and type 4
is a payload with variant 1 of CRC-16. -/
def T2 : Cfg := { T1 with
  voiceProfile := ⟨.payload, .fivebit 2 11 0, false, false⟩
  profile := fun t => if t = 4#8 then some ⟨.payload, .ccitt16v1 2 3, false, false⟩ else none }

theorem append_byte_lt {n k : Nat} {x : BitVec n} (y : Byte) (h : x.toNat < 2 ^ k) :
    (x ++ y).toNat < 2 ^ (k + 8) := by
  have hy := y.isLt
  rw [BitVec.toNat_append]
  refine Nat.or_lt_two_pow ?_ (Nat.lt_of_lt_of_le hy (Nat.pow_le_pow_right (by decide) (by omega)))
  rw [Nat.shiftLeft_eq, Nat.pow_add]
  exact Nat.mul_lt_mul_of_pos_right h (by decide)

theorem three_byte_id (a b d : Byte) : (ofBe32 0 a b d).toNat < 2 ^ 24 :=
  append_byte_lt (k := 16) d (append_byte_lt (k := 8) b (append_byte_lt (k := 0) a (by decide)))

/-- T1 is well formed (rule R10). -/
theorem T1_wellFormed : T1.WellFormed where
  frame_len := by decide
  mask_width := rfl
  pattern_width := by decide
  lc_len := by decide
  lc_width := by intro F h; simp [T1, slice] at h ⊢; omega
  id_width := by decide
  sync_inside := by decide
  table_nonempty := by decide
  table_distinct := by decide
  checks_fit := by
    intro t p h
    simp only [T1] at h
    repeat' split at h
    all_goals cases h
    all_goals simp [CheckSpec.fits, T1, headerProfile, terminatorProfile, dataProfile]
  voice_check_fits := trivial
  header_ids := by
    intro t p h hr
    simp only [T1] at h
    repeat' split at h
    all_goals cases h
    all_goals first | rfl | cases hr
  voice_role := rfl
  depth_pos := by decide
  ids_fit := fun _ _ => ⟨three_byte_id .., three_byte_id ..⟩

/-- T2 is well formed. -/
theorem T2_wellFormed : T2.WellFormed :=
  { T1_wellFormed with
    checks_fit := by
      intro t p h
      simp only [T2] at h
      split at h <;> cases h
      simp [CheckSpec.fits, T2, T1]
    voice_check_fits := by simp [CheckSpec.fits, T2, T1]
    header_ids := by
      intro t p h hr
      simp only [T2] at h
      split at h <;> cases h
      cases hr
    voice_role := rfl }

/-- Condition 5 of rule R10 refuses a queue of depth 0. -/
theorem test_depth_zero_is_ill_formed : ¬ { T1 with queueDepth := 0 }.WellFormed :=
  fun h => absurd h.depth_pos (by decide)

/-- Condition 2 refuses two patterns that are equal after masking. -/
theorem test_equal_patterns_are_ill_formed :
    ¬ { T1 with syncTable := [([0xA5, 0x50], ⟨.data, .bs⟩), ([0xA5, 0x5F], ⟨.voice, .bs⟩)]
      }.WellFormed := fun h => absurd h.table_distinct (by decide)

/-- Condition 1 refuses a sync field that ends outside the frame. -/
theorem test_sync_outside_is_ill_formed : ¬ { T1 with syncOff := 15 }.WellFormed :=
  fun h => absurd h.sync_inside (by decide)

/-- Condition 3 refuses a check that ends outside the frame. -/
theorem test_check_outside_is_ill_formed :
    ¬ { T1 with voiceProfile := ⟨.payload, .crc32 2 15, false, false⟩ }.WellFormed :=
  fun h => absurd h.voice_check_fits (by simp [CheckSpec.fits, T1])

/-- Condition 4 refuses a voice profile with another role. -/
theorem test_voice_role_is_ill_formed :
    ¬ { T1 with voiceProfile := ⟨.header, .none, true, false⟩ }.WellFormed :=
  fun h => absurd h.voice_role (by decide)

/-- Condition 6 refuses ids wider than `ID_W`. -/
theorem test_wide_id_is_ill_formed : ¬ { T1 with hdrOf := fun _ => ⟨0x1000000, 0, true⟩ }.WellFormed :=
  fun h => absurd (h.ids_fit (zeros 16) (by decide)).1 (by decide)

/-! ### Decoding: one word of each command, written out from rules R81, R82 and R86 -/

theorem test_decode_chk5 :
    decode [0x01, 0x85, 0x00, 0x01, 0x00, 0x00, 0x00, 0x00, 0x07] = .ok (.chk5 0x85 [7]) := by decide
theorem test_decode_enc5 :
    decode [0x02, 0x00, 0x00, 0x02, 0x00, 0x00, 0x00, 0x00, 0x07, 0x08] = .ok (.enc5 [7, 8]) := by decide
theorem test_decode_chk16a :
    decode [0x03, 0x00, 0x00, 0x01, 0x00, 0x00, 0x00, 0x00, 0x01] = .ok (.chk16a [1]) := by decide
theorem test_decode_add16a :
    decode [0x04, 0x00, 0x00, 0x01, 0x00, 0x00, 0x00, 0x00, 0x02] = .ok (.add16a [2]) := by decide
theorem test_decode_chk16b :
    decode [0x05, 0x00, 0x00, 0x01, 0x00, 0x00, 0x00, 0x00, 0x03] = .ok (.chk16b [3]) := by decide
theorem test_decode_add16b :
    decode [0x06, 0x00, 0x00, 0x01, 0x00, 0x00, 0x00, 0x00, 0x04] = .ok (.add16b [4]) := by decide
theorem test_decode_chk32 :
    decode [0x07, 0x00, 0x00, 0x01, 0x00, 0x00, 0x00, 0x00, 0x05] = .ok (.chk32 [5]) := by decide
theorem test_decode_add32 :
    decode [0x08, 0x00, 0x00, 0x01, 0x00, 0x00, 0x00, 0x00, 0x06] = .ok (.add32 [6]) := by decide
theorem test_decode_crc8 :
    decode [0x09, 0x00, 0x00, 0x01, 0x00, 0x00, 0x00, 0x00, 0x07] = .ok (.crc8 [7]) := by decide
theorem test_decode_crc9 :
    decode [0x0A, 0x00, 0x00, 0x01, 0x00, 0x00, 0x00, 0x00, 0x08] = .ok (.crc9 [8]) := by decide
theorem test_decode_sync :
    decode [0x10, 0x00, 0x00, 0x02, 0x00, 0x00, 0x00, 0x00, 0xA5, 0x5F] = .ok (.sync [0xA5, 0x5F]) := by decide
theorem test_decode_validate :
    decode [0x11, 0x00, 0x00, 0x00, 0x00, 0x00, 0x00, 0x00] = .ok (.validate []) := by decide
theorem test_decode_procframe :
    decode [0x20, 0x01, 0x00, 0x01, 0x00, 0x00, 0x80, 0x01, 0xA5] = .ok (.procframe (some 0x8001) [0xA5]) := by decide
theorem test_decode_procframe_without_sample :
    decode [0x20, 0x00, 0x00, 0x01, 0x00, 0x00, 0x00, 0x00, 0xA5] = .ok (.procframe none [0xA5]) := by decide
theorem test_decode_procnet :
    decode [0x21, 0x01, 0x00, 0x00, 0x00, 0x00, 0x00, 0x00] = .ok (.procnet (some [])) := by decide
theorem test_decode_procnet_without_frame :
    decode [0x21, 0x00, 0x00, 0x00, 0x00, 0x00, 0x00, 0x00] = .ok (.procnet none) := by decide
theorem test_decode_getframe :
    decode [0x22, 0x00, 0x00, 0x00, 0x00, 0x00, 0x00, 0x00] = .ok (.getframe) := by decide
theorem test_decode_clock :
    decode [0x23, 0x00, 0x00, 0x00, 0x12, 0x34, 0x56, 0x78] = .ok (.clock 0x12345678) := by decide
theorem test_decode_isbusy :
    decode [0x24, 0x00, 0x00, 0x00, 0x00, 0x00, 0x00, 0x00] = .ok (.isbusy) := by decide
theorem test_decode_reset :
    decode [0x25, 0x00, 0x00, 0x00, 0x00, 0x00, 0x00, 0x00] = .ok (.reset) := by decide
theorem test_decode_rdstat :
    decode [0x26, 0x51, 0x00, 0x00, 0x00, 0x00, 0x00, 0x00] = .ok (.rdstat 0x51) := by decide
theorem test_decode_rdlc :
    decode [0x27, 0x01, 0x00, 0x00, 0x00, 0x00, 0x00, 0x00] = .ok (.rdlc .net) := by decide

theorem test_decode_reserved_opcode :
    decode [0x0B, 0x00, 0x00, 0x00, 0x00, 0x00, 0x00, 0x00] = .error .reservedOpcode := by decide
theorem test_decode_reserved_field :
    decode [0x20, 0x00, 0x00, 0x00, 0x00, 0x00, 0x00, 0x01] = .error .reservedField := by decide
theorem test_decode_unexpected_payload :
    decode [0x22, 0x00, 0x00, 0x01, 0x00, 0x00, 0x00, 0x00, 0x00] = .error .unexpectedPayload := by decide
theorem test_decode_misdelimited :
    decode [0x22, 0x00, 0x00, 0x01, 0x00, 0x00, 0x00, 0x00] = .error .misdelimited := by decide

/-- The table's byte 0 is the least significant byte of a table word. -/
theorem test_table_word_is_little_end_first :
    decodeTableWord 64 0x785634120000AB26 = none ∧ decodeTableWord 32 0x0000AB26 = some (.rdstat 0xAB) := by
  decide

/-! ### Results: packets in, packets out -/

/-- The response packet to a command packet, on the block under T1. -/
def reply (b : Block) (packet : Buffer) : Option Buffer :=
  (serve T1 packet b).map fun r => r.2.packet

/-- The block under T1 after commands, from reset. -/
def after (is : List Instr) : Block := is.foldl (fun b i => (perform T1 i b).1) (Block.reset T1)

/-- Frames of `95_test_vectors.md`: a header for group 100 from radio 1234. -/
def hdr : Buffer := [0xA5, 0x50, 0x01, 0x01, 0x00, 0x00, 0x64, 0x00, 0x04, 0xD2, 0x11, 0x22, 0x33, 0x44, 0xE5, 0x0E]
/-- A header for group 200 from radio 5678. -/
def hdr2 : Buffer := [0xA5, 0x50, 0x01, 0x01, 0x00, 0x00, 0xC8, 0x00, 0x16, 0x2E, 0x55, 0x66, 0x77, 0x88, 0xCA, 0x00]
/-- A voice frame. -/
def voice : Buffer := [0xA5, 0xA0, 0x01, 0x01, 0x01, 0x01, 0x01, 0x01, 0x01, 0x01, 0x01, 0x01, 0x01, 0x01, 0x01, 0x01]
/-- A terminator for group 100. -/
def term : Buffer := [0xA5, 0x50, 0x02, 0x01, 0x00, 0x00, 0x64, 0x00, 0x04, 0xD2, 0x00, 0x00, 0x00, 0x00, 0x49, 0xD6]
/-- A data frame with a CRC-32. -/
def data : Buffer := [0xA5, 0x50, 0x03, 0xDE, 0xAD, 0xBE, 0xEF, 0x00, 0x01, 0x02, 0x03, 0x04, 0x57, 0x72, 0xC5, 0xA3]
/-- The first header with a wrong trailer. -/
def badCheck : Buffer := [0xA5, 0x50, 0x01, 0x01, 0x00, 0x00, 0x64, 0x00, 0x04, 0xD2, 0x11, 0x22, 0x33, 0x44, 0xE5, 0x0F]

theorem test_chk5_reports_sum :
    reply (Block.reset T1)
      [0x01, 0x05, 0x00, 0x09, 0x00, 0x00, 0x00, 0x00, 0x00, 0x01, 0x02, 0x03, 0x04, 0x05, 0x06,
        0x07, 0x08]
      = some [0x00, 0x01, 0x00, 0x00, 0x00, 0x00, 0x00, 0x05, 0x00] := by decide +kernel
theorem test_enc5_reduces_modulo_31 :
    reply (Block.reset T1)
      [0x02, 0x00, 0x00, 0x09, 0x00, 0x00, 0x00, 0x00, 0xFF, 0xFF, 0xFF, 0xFF, 0xFF, 0xFF, 0xFF,
        0xFF, 0xFF]
      = some [0x00, 0x01, 0x00, 0x00, 0x00, 0x00, 0x00, 0x01, 0x00] := by decide +kernel
theorem test_chk16a_high_byte_first :
    reply (Block.reset T1)
      [0x03, 0x00, 0x00, 0x03, 0x00, 0x00, 0x00, 0x00, 0x00, 0x8F, 0x8F]
      = some [0x00, 0x01, 0x00, 0x00, 0x00, 0x00, 0x8F, 0x8F, 0x00] := by decide +kernel
theorem test_add16a_appends_value :
    reply (Block.reset T1)
      [0x04, 0x00, 0x00, 0x03, 0x00, 0x00, 0x00, 0x00, 0x01, 0x00, 0x00]
      = some [0x00, 0x01, 0x00, 0x03, 0x00, 0x00, 0x9E, 0x06, 0x01, 0x9E, 0x06,
        0x00] := by decide +kernel
theorem test_chk16b_rejects_other_value :
    reply (Block.reset T1)
      [0x05, 0x00, 0x00, 0x03, 0x00, 0x00, 0x00, 0x00, 0x80, 0xFF, 0xFF]
      = some [0x00, 0x00, 0x00, 0x00, 0x00, 0x00, 0x6E, 0x77, 0x00] := by decide +kernel
theorem test_add16b_low_byte_first :
    reply (Block.reset T1)
      [0x06, 0x00, 0x00, 0x03, 0x00, 0x00, 0x00, 0x00, 0xFF, 0x00, 0x00]
      = some [0x00, 0x01, 0x00, 0x03, 0x00, 0x00, 0xE1, 0x0F, 0xFF, 0x0F, 0xE1,
        0x00] := by decide +kernel
theorem test_chk32_rejects_wrong_trailer :
    reply (Block.reset T1)
      [0x07, 0x00, 0x00, 0x05, 0x00, 0x00, 0x00, 0x00, 0x00, 0xB3, 0x41, 0xF7, 0xB0]
      = some [0x00, 0x00, 0x00, 0x00, 0xB1, 0xF7, 0x41, 0xB3, 0x00] := by decide +kernel
theorem test_add32_least_significant_first :
    reply (Block.reset T1)
      [0x08, 0x00, 0x00, 0x05, 0x00, 0x00, 0x00, 0x00, 0x01, 0x00, 0x00, 0x00, 0x00]
      = some [0x00, 0x01, 0x00, 0x05, 0xB5, 0x36, 0x5C, 0x06, 0x01, 0x06, 0x5C, 0x36, 0xB5,
        0x00] := by decide +kernel
theorem test_crc8_looks_up_table :
    reply (Block.reset T1)
      [0x09, 0x00, 0x00, 0x03, 0x00, 0x00, 0x00, 0x00, 0x01, 0x02, 0x03]
      = some [0x00, 0x01, 0x00, 0x00, 0x00, 0x00, 0x00, 0x8B, 0x00] := by decide +kernel
theorem test_crc9_masks_ninth_bit :
    reply (Block.reset T1)
      [0x0A, 0x00, 0x00, 0x03, 0x00, 0x00, 0x00, 0x00, 0x01, 0x02, 0x03]
      = some [0x00, 0x01, 0x00, 0x00, 0x00, 0x00, 0x00, 0x6F, 0x00] := by decide +kernel
theorem test_short_payload_is_fatal :
    reply (Block.reset T1)
      [0x03, 0x00, 0x00, 0x02, 0x00, 0x00, 0x00, 0x00, 0x01, 0x02]
      = some [0xFE, 0x00, 0x00, 0x00, 0x00, 0x00, 0x00, 0x00, 0x00] := by decide +kernel
theorem test_sync_compares_under_mask :
    reply (Block.reset T1)
      [0x10, 0x00, 0x00, 0x02, 0x00, 0x00, 0x00, 0x00, 0x5A, 0x50]
      = some [0x00, 0x01, 0x00, 0x00, 0x00, 0x00, 0x00, 0x03, 0x00] := by decide +kernel
theorem test_validate_accepts_crc32_frame :
    reply (Block.reset T1)
      [0x11, 0x00, 0x00, 0x10, 0x00, 0x00, 0x00, 0x00, 0xA5, 0x50, 0x03, 0xDE, 0xAD, 0xBE, 0xEF,
        0x00, 0x01, 0x02, 0x03, 0x04, 0x57, 0x72, 0xC5, 0xA3]
      = some [0x00, 0x01, 0x00, 0x00, 0x00, 0x01, 0x03, 0x01, 0x00] := by decide +kernel
theorem test_validate_reports_bad_check :
    reply (Block.reset T1)
      [0x11, 0x00, 0x00, 0x10, 0x00, 0x00, 0x00, 0x00, 0xA5, 0x50, 0x01, 0x01, 0x00, 0x00, 0x64,
        0x00, 0x04, 0xD2, 0x11, 0x22, 0x33, 0x44, 0xE5, 0x0F]
      = some [0x04, 0x00, 0x00, 0x00, 0x00, 0x00, 0x01, 0x01, 0x00] := by decide +kernel
theorem test_procframe_header_opens_call :
    reply (Block.reset T1)
      [0x20, 0x00, 0x00, 0x10, 0x00, 0x00, 0x00, 0x00, 0xA5, 0x50, 0x01, 0x01, 0x00, 0x00, 0x64,
        0x00, 0x04, 0xD2, 0x11, 0x22, 0x33, 0x44, 0xE5, 0x0E]
      = some [0x00, 0x01, 0x00, 0x00, 0x00, 0x00, 0x00, 0x00, 0x01, 0x01, 0x00, 0x00, 0x01, 0x00,
        0x00, 0x00, 0x64, 0x00, 0x00, 0x04, 0xD2, 0x00, 0x00, 0x00, 0x00] := by decide +kernel
theorem test_procframe_favoured_header_preempts :
    reply (after [.procnet (some hdr2)])
      [0x20, 0x01, 0x00, 0x10, 0x00, 0x00, 0x00, 0x40, 0xA5, 0x50, 0x01, 0x01, 0x00, 0x00, 0x64,
        0x00, 0x04, 0xD2, 0x11, 0x22, 0x33, 0x44, 0xE5, 0x0E]
      = some [0x00, 0x01, 0x00, 0x00, 0x00, 0x00, 0x00, 0x00, 0x02, 0x02, 0x01, 0x04, 0x01, 0x00,
        0x00, 0x00, 0xC8, 0x00, 0x00, 0x16, 0x2E, 0x00, 0x00, 0x00, 0x00, 0x01, 0x00, 0x00, 0x01,
        0x00, 0x00, 0x00, 0x64, 0x00, 0x00, 0x04, 0xD2, 0x00, 0x00, 0x00, 0x00] := by decide +kernel
theorem test_procnet_other_destination_rejected :
    reply (after [.procframe none hdr])
      [0x21, 0x01, 0x00, 0x10, 0x00, 0x00, 0x00, 0x00, 0xA5, 0x50, 0x01, 0x01, 0x00, 0x00, 0xC8,
        0x00, 0x16, 0x2E, 0x55, 0x66, 0x77, 0x88, 0xCA, 0x00]
      = some [0x07, 0x00, 0x00, 0x00, 0x00, 0x00, 0x00, 0x00, 0x01, 0x04, 0x01, 0x00, 0x01, 0x00,
        0x00, 0x00, 0xC8, 0x00, 0x00, 0x16, 0x2E, 0x00, 0x00, 0x00, 0x00] := by decide +kernel
theorem test_procnet_without_frame :
    reply (Block.reset T1)
      [0x21, 0x00, 0x00, 0x00, 0x00, 0x00, 0x00, 0x00]
      = some [0x0C, 0x00, 0x00, 0x00, 0x00, 0x00, 0x00, 0x00, 0x00] := by decide +kernel
theorem test_getframe_returns_oldest :
    reply (after [.procframe none hdr])
      [0x22, 0x00, 0x00, 0x00, 0x00, 0x00, 0x00, 0x00]
      = some [0x00, 0x01, 0x00, 0x10, 0x00, 0x00, 0x00, 0x00, 0xA5, 0x50, 0x01, 0x01, 0x00, 0x00,
        0x64, 0x00, 0x04, 0xD2, 0x11, 0x22, 0x33, 0x44, 0xE5, 0x0E, 0x00] := by decide +kernel
theorem test_rdlc_returns_cache :
    reply (after [.procnet (some hdr2)])
      [0x27, 0x01, 0x00, 0x00, 0x00, 0x00, 0x00, 0x00]
      = some [0x00, 0x01, 0x00, 0x04, 0x00, 0x00, 0x00, 0x00, 0x55, 0x66, 0x77, 0x88,
        0x00] := by decide +kernel

/-- The timeout of T1 is 1000 ms: nothing happens after 999, and the call ends after one more. -/
theorem test_clock_expires_at_timeout :
    (perform T1 (.clock 1) (after [.procframe none hdr, .clock 999])).2.events.map Event.code
      = [.callEnd] ∧
    (perform T1 (.clock 999) (after [.procframe none hdr])).2.events = [] := by decide +kernel

/-- `ISBUSY` is true during a call (program P1 step 3) and `RESET` ends that (program P3 step 13). -/
theorem test_isbusy_and_reset :
    (perform T1 .isbusy (after [.procframe none hdr])).2.result = true ∧
    (perform T1 .isbusy (after [.procframe none hdr, .reset])).2.result = false := by decide +kernel

/-- After two frames of a call word `0x28`, the accepted frames of RF, is 2 (rule R45). -/
theorem test_rdstat_counts_accepted_frames :
    (perform T1 (.rdstat 0x28) (after [.procframe none hdr, .procframe none voice])).2.res32 = 2 := by
  decide +kernel

/-! ### Witnesses: data that meets the hypotheses of each obligation

`State.reset` has `fault` false and no frame pending; `ready` is the same block under T1. A statement
made for every well-formed configuration has its witness under T1 (or T2). -/

/-- The machine under T1 after commands. -/
def ready (is : List Instr) : State := { blk := after is }

/-- A good state with a call open, whatever the configuration: its timer has 0 ms left. -/
def openState : State :=
  { blk := { Block.reset cfg with
      rf := { Half.reset cfg with st := .receiving, tmo := ⟨.running, 0⟩ }
      ctx := { valid := true } } }

/-- A good state with the hang timer running. -/
def hangState : State :=
  { blk := { Block.reset cfg with ctx := { valid := true, hang := ⟨.running, 0⟩ } } }

/-- The state after a short codec payload. -/
def faultedState : State :=
  { blk := { Block.reset cfg with fault := true, faultCause := 1 }, inputs := [.hardwareReset] }

/-- The reset state with host inputs. -/
def fed (is : List HostInput) : State := { State.reset with inputs := is }

theorem zero_le (T : Word32) : (0#32) ≤ T := by rw [BitVec.le_def]; exact Nat.zero_le _

theorem empty_record_bounded : ({} : RssiStats).Bounded := ⟨fun _ => rfl, by decide⟩

theorem closed_half_good (o : Origin) : (Half.reset cfg).Invariant cfg o where
  not_ending := by simp
  timer := rfl
  timer_within := ⟨fun _ => rfl, zero_le _⟩
  lc_length := by simp [Half.reset, zeros]
  lc_unset := fun _ => rfl
  rssi := empty_record_bounded

/-- A state with no call, no timer and no pending frame, and one refusal counted. -/
def quietState : State := { blk := { Block.reset cfg with cntBp := 1 } }

theorem quietState_good : quietState.Invariant where
  latch := rfl
  halves := by
    intro o
    cases o
    · exact closed_half_good .rf
    · exact closed_half_good .net
  one_owner := .inl rfl
  owner_context := by
    intro o h
    cases o <;> exact absurd rfl h
  hang := rfl
  hang_within := ⟨fun _ => rfl, zero_le _⟩
  context_clear := fun _ => rfl
  ids := ⟨Nat.two_pow_pos _, Nat.two_pow_pos _⟩
  net_rssi := rfl
  queue_bound := Nat.zero_le _
  queue_frames := fun e h => by cases h
  pend_frame := by simp [quietState, Block.reset, zeros]
  pend_clear := fun _ => rfl

/-- The open call is a good state. -/
theorem openState_good : openState.Invariant where
  latch := rfl
  halves := by
    intro o
    cases o
    · exact { closed_half_good .rf with
        not_ending := by decide
        timer := rfl
        timer_within := ⟨fun _ => rfl, zero_le _⟩ }
    · exact closed_half_good .net
  one_owner := .inr rfl
  owner_context := by
    intro o h
    cases o
    · exact ⟨rfl, rfl⟩
    · exact absurd rfl h
  hang := rfl
  hang_within := ⟨fun _ => rfl, zero_le _⟩
  context_clear := fun h => by cases h
  ids := ⟨Nat.two_pow_pos _, Nat.two_pow_pos _⟩
  net_rssi := rfl
  queue_bound := Nat.zero_le _
  queue_frames := fun e h => by cases h
  pend_frame := by simp [openState, zeros]
  pend_clear := fun _ => rfl

theorem witness_DecodeEncodeRoundTrip : (Instr.chk5 0x85 [1, 2]).wellFormed = true := by decide

theorem witness_EncodeDecodeRoundTrip :
    decode [0x27, 0x01, 0, 0, 0, 0, 0, 0] = .ok (.rdlc .net) := by decide

theorem witness_OperandTableDecidesDecoding :
    operandsAllowed 0x20 1 0xFFFF [] = true ∧ operandsAllowed 0x20 1 0x10000 [] = false ∧
    operandsAllowed 0x20 2 0 [] = false ∧ operandsAllowed 0x0B 0 0 [] = false := by decide

theorem witness_ResponsePacketLayout :
    ({ status := .ok, events := [⟨.callStart, .rf, none, true, 1, 2, 0⟩] } : Response).WellShaped ∧
    ([⟨.callStart, .rf, none, true, 1, 2, 0⟩] : List Event)[0]?
      = some ⟨.callStart, .rf, none, true, 1, 2, 0⟩ :=
  ⟨⟨by decide, by decide, by decide, by decide⟩, rfl⟩

theorem witness_StepRunsDecodedCommand :
    (fed [.command (encode .isbusy)]).inputs = .command (encode .isbusy) :: [] ∧
    decode (encode .isbusy) = .ok .isbusy ∧ Instr.isbusy.wellFormed = true :=
  ⟨rfl, by decide, by decide⟩

theorem witness_StepsStopOnlyOnMisdelimitedPackets :
    (fed []).inputs = [] ∧ faultedState.inputs = .hardwareReset :: [] ∧
    ((fed [.command []]).inputs = .command [] :: [] ∧
      ∀ op arg8 arg32 payload, payload.length ≤ 65535 → [] ≠ packetOf op arg8 arg32 payload) ∧
    ∃ op arg8 arg32 payload, payload.length ≤ 65535 ∧ encode .isbusy = packetOf op arg8 arg32 payload :=
  ⟨rfl, rfl, ⟨rfl, by simp [packetOf]⟩, 0x24, 0, 0, [], by decide, rfl⟩

theorem witness_CommandStreamIsLeftFold :
    (∀ i ∈ [Instr.getframe, .clock 5], i.wellFormed = true) ∧
    (fed [.command (encode .getframe), .command (encode (.clock 5))]).inputs
      = [Instr.getframe, .clock 5].map (fun i => .command (encode i)) ++ [] := ⟨by decide, rfl⟩

theorem witness_HardwareResetGivesResetValues :
    faultedState.inputs = .hardwareReset :: [] := rfl

theorem witness_ResetCommandRestoresState :
    openState.blk.fault = false ∧ faultedState.blk.fault = true := ⟨rfl, rfl⟩

theorem witness_RefusedCommandsChangeNothing :
    (operandsAllowed 0x0B 0 0 [] = false ∧
      (fed [.command (packetOf 0x0B 0 0 [])]).inputs = .command (packetOf 0x0B 0 0 []) :: []) ∧
    (0x26#8 = 0x26#8 ∧ selectorDefined 0x10 = false ∧ operandsAllowed 0x26 0x10 0 [] = true ∧
      (fed [.command (packetOf 0x26 0x10 0 [])]).inputs = .command (packetOf 0x26 0x10 0 []) :: []) ∧
    (fed []).blk.fault = false ∧ faultedState.blk.fault = true :=
  ⟨⟨by decide, rfl⟩, ⟨rfl, by decide, by decide, rfl⟩, rfl, rfl⟩

theorem witness_FaultedBlockAnswersFaulted :
    faultedState.blk.fault = true ∧
    { faultedState with inputs := [.command (packetOf 0x25 0 0 [])] }.inputs
      = .command (packetOf 0x25 0 0 []) :: [] ∧
    ∃ t, step faultedState = .next t ∧ t.blk.fault = false := ⟨rfl, rfl, _, rfl, rfl⟩

theorem witness_ShortCodecPayloadRaisesFatal :
    codecMinimum (.chk32 [1, 2, 3, 4]) = some 5 ∧ (Instr.chk32 [1, 2, 3, 4]).payload.length < 5 ∧
    (∀ m, codecMinimum (.chk32 [1, 2, 3, 4, 5]) = some m →
      m ≤ (Instr.chk32 [1, 2, 3, 4, 5]).payload.length) ∧
    (∃ t, exec (.chk32 [1, 2, 3, 4, 5]) State.reset = .next t) ∧
    State.reset.blk.fault = false :=
  ⟨rfl, by decide, fun m h => by cases h; decide, ⟨_, exec_next _ _⟩, rfl⟩

theorem witness_LatchSetOnlyByShortCodecPayload :
    ∃ t, step (fed [.command (encode (.crc8 []))]) = .next t ∧
      (fed [.command (encode (.crc8 []))]).blk.fault = false ∧ t.blk.fault = true :=
  ⟨_, step_command rfl (by decide : _ = Except.ok (Instr.crc8 [])), rfl, rfl⟩

theorem witness_LatchClearedOnlyByHardwareReset :
    faultedState.blk.fault = true ∧ (∃ t, step faultedState = .next t) ∧
    (∃ t, step { faultedState with inputs := [] } = .next t) ∧
    ∀ rest, { faultedState with inputs := [] }.inputs ≠ .hardwareReset :: rest :=
  ⟨rfl, ⟨_, rfl⟩, ⟨_, rfl⟩, fun _ h => by cases h⟩

theorem witness_PayloadCommandsIgnoreState :
    readsPayloadOnly (.sync []) = true ∧ readsPayloadOnly (.crc9 [1]) = true ∧
    State.reset.blk.fault = false := ⟨rfl, rfl, rfl⟩

theorem witness_FiveBitCommandsSumNineBytes :
    State.reset.blk.fault = false ∧ 9 ≤ (zeros 9).length := ⟨rfl, by decide⟩

theorem witness_FiveBitCheckDetectsSingleFlips :
    State.reset.blk.fault = false ∧ 9 ≤ (zeros 9).length ∧
    resultOf (exec (.chk5 0 (zeros 9)) State.reset) = some true ∧ 71 < 72 ∧ 7 < 8 ∧
    9 ≤ ([31#8] ++ zeros 9).length :=
  ⟨rfl, by decide, by decide +kernel, by decide, by decide, by decide⟩

theorem witness_TableDrivenStepEqualsBitSerial : 8 ≤ 8 ∧ 8 ≤ 32 := by decide

theorem witness_Crc16VariantOne : State.reset.blk.fault = false ∧ 3 ≤ [0x00#8, 0x8F, 0x8F].length :=
  ⟨rfl, by decide⟩

theorem witness_Crc16VariantTwo : State.reset.blk.fault = false ∧ 3 ≤ [0x00#8, 0xFF, 0xFF].length :=
  ⟨rfl, by decide⟩

theorem witness_Crc32LeastSignificantByteFirst :
    State.reset.blk.fault = false ∧ 5 ≤ [0x00#8, 0xB3, 0x41, 0xF7, 0xB1].length := ⟨rfl, by decide⟩

theorem witness_Crc8AndCrc9LookUpTheirTables : State.reset.blk.fault = false ∧ 1 ≤ [0x00#8].length :=
  ⟨rfl, by decide⟩

theorem witness_AddThenCheckPasses :
    State.reset.blk.fault = false ∧ 3 ≤ (zeros 9).length ∧ 5 ≤ (zeros 9).length ∧
    9 ≤ (zeros 9).length := ⟨rfl, by decide, by decide, by decide⟩

theorem witness_CrcChecksDetectSingleFlips :
    State.reset.blk.fault = false ∧
    (23 < 8 * [0x00#8, 0x8F, 0x8F].length ∧
      resultOf (exec (.chk16a [0x00, 0x8F, 0x8F]) State.reset) = some true) ∧
    (0 < 8 * [0x00#8, 0xFF, 0xFF].length ∧
      resultOf (exec (.chk16b [0x00, 0xFF, 0xFF]) State.reset) = some true) ∧
    (39 < 8 * [0x00#8, 0xB3, 0x41, 0xF7, 0xB1].length ∧
      resultOf (exec (.chk32 [0x00, 0xB3, 0x41, 0xF7, 0xB1]) State.reset) = some true) := by
  refine ⟨rfl, ⟨by decide, ?_⟩, ⟨by decide, ?_⟩, ⟨by decide, ?_⟩⟩ <;> decide +kernel

theorem witness_SyncClassifiesMaskedPatterns :
    T1.WellFormed ∧ (ready []).blk.fault = false ∧
    (([0x5A, 0x50], ⟨.data, .ms⟩) ∈ T1.syncTable ∧ T1.syncOff + T1.syncW ≤ [0x5A#8, 0x5F].length ∧
      ∀ k < T1.syncW, [0x5A#8, 0x5F].getD (T1.syncOff + k) 0 &&& T1.syncMask.getD k 0
        = [0x5A#8, 0x50].getD k 0 &&& T1.syncMask.getD k 0) ∧
    [0xA5#8].length < T1.syncOff + T1.syncW ∧
    ∀ e ∈ T1.syncTable, ∃ k < T1.syncW, [0xA5#8, 0x00].getD (T1.syncOff + k) 0 &&& T1.syncMask.getD k 0
      ≠ e.1.getD k 0 &&& T1.syncMask.getD k 0 :=
  ⟨T1_wellFormed, rfl, by decide, by decide, by decide⟩

theorem witness_SyncAndValidateComplete : State.reset.blk.fault = false := rfl

/-- The kind of the base station's data frames, of its voice frames. -/
def bsData : SyncKind := ⟨.data, .bs⟩
/-- The kind of the base station's voice frames. -/
def bsVoice : SyncKind := ⟨.voice, .bs⟩

theorem witness_ValidateReportsFirstFailingStage :
    T1.WellFormed ∧ (ready []).blk.fault = false ∧ [0xA5#8].length ≠ T1.frameLen ∧
    ((zeros 16).length = T1.frameLen ∧ classify T1 (zeros 16) = none) ∧
    (voice.length = T1.frameLen ∧ classify T1 voice = some bsVoice ∧ bsVoice.content = .voice) ∧
    (classify T1 (data.set 2 9) = some bsData ∧ bsData.content = .data ∧
      T1.profile (T1.typeOf (data.set 2 9)) = none) ∧
    (data.length = T1.frameLen ∧ classify T1 data = some bsData ∧
      T1.profile (T1.typeOf data) = some dataProfile) :=
  ⟨T1_wellFormed, rfl, by decide, by decide, by decide, by decide, by decide⟩

theorem witness_ValidatorMeetsCodecMinimum :
    T1.WellFormed ∧ T2.WellFormed ∧ (ready []).blk.fault = false ∧ badCheck.length = T1.frameLen ∧
    badCheck.length = T2.frameLen ∧ validate T1 badCheck = .drop .dropCheck (some bsData) (some 1) ∧
    T1.voiceProfile.check = .none ∧ T2.voiceProfile.check = .fivebit 2 11 0 ∧
    T2.profile 4 = some ⟨.payload, .ccitt16v1 2 3, false, false⟩ ∧
    T1.profile 1 = some ⟨.header, .ccitt16v2 2 14, true, true⟩ ∧
    T1.profile 3 = some ⟨.payload, .crc32 2 14, false, false⟩ := by
  refine ⟨T1_wellFormed, T2_wellFormed, rfl, by decide, by decide, by decide +kernel, rfl, rfl, rfl, rfl, rfl⟩

theorem witness_PendingFrameRefusesFrames :
    { openState with blk := { openState.blk with pend := ⟨true, .rf, [1]⟩ } }.blk.fault = false ∧
    { openState with blk := { openState.blk with pend := ⟨true, .rf, [1]⟩ } }.blk.pend.valid = true :=
  ⟨rfl, rfl⟩

theorem witness_InvalidFramesOnlyCount :
    T1.WellFormed ∧ examines (ready []).blk ∧ validate T1 [] = .drop .dropLength none none ∧
    validate T1 badCheck = .drop .dropCheck (some bsData) (some 1) := by
  refine ⟨T1_wellFormed, ⟨rfl, rfl⟩, by decide, by decide +kernel⟩

/-- The state under T1 with an RF call open for group 100. -/
def rfCall : State := ready [.procframe none hdr]

theorem rfCall_examines : examines rfCall.blk := ⟨by decide +kernel, by decide +kernel⟩

theorem witness_PayloadFrameNeedsOpenCall :
    T1.WellFormed ∧ examines (ready []).blk ∧ examines rfCall.blk ∧
    validate T1 voice = .valid bsVoice 0 ⟨.payload, .none, false, false⟩ ∧
    ((ready []).blk.half .rf).st = .idle ∧ (rfCall.blk.half .rf).st ≠ .idle :=
  ⟨T1_wellFormed, ⟨rfl, rfl⟩, rfCall_examines, by decide, rfl, by decide +kernel⟩

theorem witness_TerminatorEndsItsCall :
    T1.WellFormed ∧ examines (ready []).blk ∧ examines rfCall.blk ∧
    validate T1 term = .valid bsData 2 terminatorProfile ∧ terminatorProfile.role = .terminator ∧
    ((ready []).blk.half .rf).st = .idle ∧ (rfCall.blk.half .rf).st ≠ .idle ∧
    terminatorProfile.hasIds = true ∧ sameDestination rfCall.blk.ctx (T1.hdrOf term) ∧
    ((ready [.procframe none hdr2]).blk.half .rf).st ≠ .idle ∧
    ¬ sameDestination (ready [.procframe none hdr2]).blk.ctx (T1.hdrOf term) := by
  unfold sameDestination
  refine ⟨T1_wellFormed, ⟨rfl, rfl⟩, rfCall_examines, by decide +kernel, rfl, rfl, by decide +kernel,
    rfl, by decide +kernel, by decide +kernel, by decide +kernel⟩

theorem hdr_valid : validate T1 hdr = .valid bsData 1 headerProfile := by decide +kernel

theorem hdr_admitted : lookupsAdmit T1 (T1.hdrOf hdr) := by unfold lookupsAdmit; decide +kernel

theorem witness_AdmittedHeaderOpensCall :
    T1.WellFormed ∧ examines (ready []).blk ∧ validate T1 hdr = .valid bsData 1 headerProfile ∧
    headerProfile.role = .header ∧ (ready []).blk.rf.st = .idle ∧ (ready []).blk.net.st = .idle ∧
    lookupsAdmit T1 (T1.hdrOf hdr) ∧ ¬ hangRefuses T1 .rf (T1.hdrOf hdr) (ready []).blk.ctx :=
  ⟨T1_wellFormed, ⟨rfl, rfl⟩, hdr_valid, rfl, rfl, rfl, hdr_admitted, fun h => absurd h.1 (by decide)⟩

/-- The state under T1 in the hang time of an RF call for group 100. -/
def rfHang : State := ready [.procframe none hdr, .procframe none term]

/-- A header for talkgroup 666, which T1 refuses. -/
def hdr666 : Buffer :=
  [0xA5, 0x50, 0x01, 0x01, 0x00, 0x02, 0x9A, 0x00, 0x04, 0xD2, 0x00, 0x00, 0x00, 0x00, 0x2D, 0xC6]

theorem witness_RefusedHeadersOnlyCount :
    T1.WellFormed ∧ headerProfile.role = .header ∧
    (examines (ready []).blk ∧ validate T1 hdr666 = .valid bsData 1 headerProfile ∧
      ((ready []).blk.half .rf).st = .idle ∧ ¬ lookupsAdmit T1 (T1.hdrOf hdr666)) ∧
    (examines rfCall.blk ∧ validate T1 hdr = .valid bsData 1 headerProfile ∧
      (rfCall.blk.half .net).st = .idle ∧ lookupsAdmit T1 (T1.hdrOf hdr) ∧
      (rfCall.blk.half (other .net)).st ≠ .idle ∧ sameDestination rfCall.blk.ctx (T1.hdrOf hdr)) ∧
    (validate T1 hdr2 = .valid bsData 1 headerProfile ∧ lookupsAdmit T1 (T1.hdrOf hdr2) ∧
      ¬ sameDestination rfCall.blk.ctx (T1.hdrOf hdr2) ∧ ¬ isFavoured T1 .net) ∧
    (examines rfHang.blk ∧ (rfHang.blk.half .net).st = .idle ∧
      (rfHang.blk.half (other .net)).st = .idle ∧ hangRefuses T1 .net (T1.hdrOf hdr2) rfHang.blk.ctx) := by
  unfold lookupsAdmit sameDestination hangRefuses isFavoured sameDestination examines
  refine ⟨T1_wellFormed, rfl, ?_, ?_, ?_, ?_⟩ <;> decide +kernel

theorem witness_FavouredHeaderPreempts :
    T1.WellFormed ∧ examines (ready [.procnet (some hdr2)]).blk ∧
    validate T1 hdr = .valid bsData 1 headerProfile ∧ headerProfile.role = .header ∧
    ((ready [.procnet (some hdr2)]).blk.half .rf).st = .idle ∧
    ((ready [.procnet (some hdr2)]).blk.half (other .rf)).st ≠ .idle ∧
    lookupsAdmit T1 (T1.hdrOf hdr) ∧
    ¬ sameDestination (ready [.procnet (some hdr2)]).blk.ctx (T1.hdrOf hdr) ∧ isFavoured T1 .rf := by
  unfold sameDestination isFavoured examines
  exact ⟨T1_wellFormed, by decide +kernel, hdr_valid, rfl, by decide +kernel, by decide +kernel,
    hdr_admitted, by decide +kernel, by decide +kernel⟩

theorem witness_RepeatedHeaderContinuesCall :
    T1.WellFormed ∧ examines rfCall.blk ∧ validate T1 hdr = .valid bsData 1 headerProfile ∧
    headerProfile.role = .header ∧ (rfCall.blk.half .rf).st ≠ .idle ∧
    sameDestination rfCall.blk.ctx (T1.hdrOf hdr) := by
  unfold sameDestination
  exact ⟨T1_wellFormed, rfCall_examines, hdr_valid, rfl, by decide +kernel, by decide +kernel⟩

theorem witness_ForeignHeaderForcesEnd :
    T1.WellFormed ∧ examines rfCall.blk ∧ headerProfile.role = .header ∧
    (rfCall.blk.half .rf).st ≠ .idle ∧ (rfCall.blk.half (other .rf)).st = .idle ∧
    (validate T1 hdr666 = .valid bsData 1 headerProfile ∧
      ¬ sameDestination rfCall.blk.ctx (T1.hdrOf hdr666) ∧ ¬ lookupsAdmit T1 (T1.hdrOf hdr666)) ∧
    (validate T1 hdr2 = .valid bsData 1 headerProfile ∧
      ¬ sameDestination rfCall.blk.ctx (T1.hdrOf hdr2) ∧ lookupsAdmit T1 (T1.hdrOf hdr2) ∧
      ¬ hangRefuses T1 .rf (T1.hdrOf hdr2) (endedBlock T1 .rf .forced rfCall.blk).ctx) := by
  unfold lookupsAdmit hangRefuses isFavoured sameDestination
  exact ⟨T1_wellFormed, rfCall_examines, rfl, by decide +kernel, by decide +kernel, by decide +kernel,
    by decide +kernel⟩

/-- T1 with one data type, 5: a terminator without ids. -/
def T3 : Cfg := { T1 with
  profile := fun t => if t = 5#8 then some ⟨.terminator, .none, false, false⟩ else none }

theorem T3_wellFormed : T3.WellFormed :=
  { T1_wellFormed with
    checks_fit := by
      intro t p h
      simp only [T3] at h
      split at h <;> cases h
      trivial
    header_ids := by
      intro t p h hr
      simp only [T3] at h
      split at h <;> cases h
      cases hr }

theorem witness_FrameCommandsComplete :
    examines State.reset.blk ∧ T1.WellFormed ∧ T3.WellFormed ∧ examines rfCall.blk ∧
    validate T1 [] = .drop .dropLength none none ∧
    (validate T1 voice = .valid bsVoice 0 ⟨.payload, .none, false, false⟩ ∧
      (rfCall.blk.half .rf).st ≠ .idle) ∧
    validate T3 (data.set 2 5) = .valid bsData 5 ⟨.terminator, .none, false, false⟩ ∧
    (validate T1 hdr = .valid bsData 1 headerProfile ∧ lookupsAdmit T1 (T1.hdrOf hdr) ∧
      (ready []).blk.rf.st = .idle ∧ (ready []).blk.net.st = .idle ∧
      (ready []).blk.ctx.hang.ts ≠ .running) :=
  ⟨⟨rfl, rfl⟩, T1_wellFormed, T3_wellFormed, rfCall_examines, by decide,
    ⟨by decide, by decide +kernel⟩, by decide, hdr_valid, hdr_admitted, rfl, rfl, by decide⟩

theorem witness_EmptyNetworkPullChangesNothing : openState.blk.fault = false := rfl

theorem witness_FramesLeaveOtherHalf : ∃ t, Runs T1 (offer .net none hdr2) rfCall t :=
  ⟨_, rfl, fun h => by rw [exec_next, ← h]⟩

theorem witness_CallsOpenOnlyByHeader :
    ∃ t, Runs T1 (.procframe none hdr) (ready []) t ∧ ((ready []).blk.half .rf).st = .idle ∧
      (t.blk.half .rf).st ≠ .idle :=
  ⟨_, ⟨rfl, fun h => by rw [exec_next, ← h]⟩, rfl, by decide +kernel⟩

theorem witness_RssiSampleUpdatesStatistics :
    ({} : RssiStats).Bounded ∧ (⟨0xFFFFFFFF, 0, 0, 0⟩ : RssiStats).Bounded ∧
    (⟨0xFFFFFFFE, 0x8000, 0x8000, 0x800000010000⟩ : RssiStats).Bounded := by
  refine ⟨empty_record_bounded, ⟨fun h => ?_, by decide⟩, ⟨fun h => ?_, by decide⟩⟩ <;>
    exact absurd h (by decide)

theorem witness_GetframeReturnsOldestEntry :
    State.reset.blk.fault = false ∧ State.reset.blk.q = [] ∧
    { openState with blk := { openState.blk with q := [⟨.net, [1]⟩] } }.blk.q = ⟨.net, [1]⟩ :: [] :=
  ⟨rfl, rfl, rfl⟩

theorem witness_DeliveryKeepsAcceptanceOrder :
    (∃ t, step (fed [.command (encode .getframe)]) = .next t) ∧
    (∀ rest, (fed [.command (encode .getframe)]).inputs ≠ .hardwareReset :: rest) ∧
    ∀ packet rest, (fed [.command (encode .getframe)]).inputs = .command packet :: rest →
      decode packet ≠ .ok .reset := by
  refine ⟨⟨_, step_command rfl (by decide : _ = Except.ok Instr.getframe)⟩, fun _ h => (by cases h),
    fun packet rest h => ?_⟩
  cases h
  decide

theorem witness_ClockAdvancesRunningTimers :
    openState.blk.fault = false ∧ outlasts 999 ⟨.running, 1000⟩ ∧ outlasts 999 openState.blk.net.tmo ∧
    outlasts 999 openState.blk.ctx.hang ∧ outlasts 999 State.reset.blk.rf.tmo :=
  ⟨rfl, .inr ⟨rfl, by decide⟩, .inl rfl, .inl rfl, .inl rfl⟩

/-- A state with a frame pending: behind a full queue, or behind an empty one. -/
def waiting (full : Bool) (s : State) : State :=
  { s with blk := { s.blk with
      q := if full then List.replicate cfg.queueDepth ⟨.rf, []⟩ else []
      pend := ⟨true, .rf, []⟩ } }

theorem waiting_full (s : State) : (waiting true s).blk.q.length = cfg.queueDepth :=
  List.length_replicate

theorem waiting_empty (s : State) : (waiting false s).blk.q.length ≠ cfg.queueDepth :=
  fun h => absurd (h ▸ Config.built.wellFormed.depth_pos : 1 ≤ (waiting false s).blk.q.length) nofun

theorem witness_TimeoutEndsCall :
    openState.blk.fault = false ∧ expiresWithin 0 (openState.blk.half .rf).tmo ∧
    (openState.blk.half (other .rf)).tmo.ts = .stopped ∧
    ∀ full, (waiting full openState).blk.pend.valid = true ∧
      (waiting full openState).blk.fault = false ∧
      expiresWithin 0 ((waiting full openState).blk.half .rf).tmo ∧
      ((waiting full openState).blk.half (other .rf)).tmo.ts = .stopped :=
  ⟨rfl, ⟨rfl, by decide⟩, rfl, fun _ => ⟨rfl, rfl, ⟨rfl, Nat.le_refl 0⟩, rfl⟩⟩

theorem witness_HangExpiryClearsContext :
    hangState.blk.fault = false ∧ hangState.blk.rf.tmo.ts = .stopped ∧
    hangState.blk.net.tmo.ts = .stopped ∧ expiresWithin 0 hangState.blk.ctx.hang ∧
    ∀ full, (waiting full hangState).blk.pend.valid = true ∧
      (waiting full hangState).blk.fault = false ∧
      (waiting full hangState).blk.rf.tmo.ts = .stopped ∧
      (waiting full hangState).blk.net.tmo.ts = .stopped ∧
      expiresWithin 0 (waiting full hangState).blk.ctx.hang :=
  ⟨rfl, rfl, rfl, ⟨rfl, by decide⟩, fun _ => ⟨rfl, rfl, rfl, rfl, ⟨rfl, Nat.le_refl 0⟩⟩⟩

theorem witness_ClockEmitsAtMostTwoEvents :
    (openState.Invariant ∧ openState.blk.fault = false) ∧
    quietState.Invariant ∧ quietState.blk.fault = false ∧ quietState.blk.rf.tmo.ts ≠ .running ∧
    quietState.blk.net.tmo.ts ≠ .running ∧ quietState.blk.ctx.hang.ts ≠ .running ∧
    quietState.blk.pend.valid = false :=
  ⟨⟨openState_good, rfl⟩, quietState_good, rfl, nofun, nofun, nofun, rfl⟩

theorem witness_IsbusyReportsOpenCall : openState.blk.fault = false := rfl

theorem witness_RdstatReadsStatusWords :
    openState.blk.fault = false ∧ selectorDefined 0x10 = false ∧ selectorDefined 0x52 = false :=
  ⟨rfl, by decide, by decide⟩

theorem witness_RdlcReturnsCache : openState.blk.fault = false := rfl

theorem witness_StepsKeepInvariant :
    { openState with inputs := [.command (encode (.clock 0))] }.Invariant ∧
    ∃ t, step { openState with inputs := [.command (encode (.clock 0))] } = .next t :=
  ⟨openState_good, _, step_command rfl (by decide : _ = Except.ok (Instr.clock 0))⟩

theorem witness_ResponsesAreWellShaped :
    { openState with inputs := [.command (encode (.clock 0))] }.Invariant ∧
    { openState with inputs := [.command (encode (.clock 0))] }.inputs ≠ [] ∧
    ∃ t r, step { openState with inputs := [.command (encode (.clock 0))] } = .next t ∧
      t.resp = some r :=
  ⟨openState_good, by simp, _, _, step_command rfl (by decide : _ = Except.ok (Instr.clock 0)), rfl⟩

end Sys2Proof.Tests
end

section
/-! PROOFS. What the scope chapter says of the machine: a step runs the command its packet decodes to,
`exec` is the transition function, and the hardware's configuration is well formed. -/

namespace Sys2Proof

/-- No condition of rules R9 and R10 reads the two codec parameters, so setting them keeps all of them. -/
theorem Cfg.WellFormed.with_codec_parameters {c : Cfg} (h : c.WellFormed) (init9 : Byte)
    (lsbFirst : Bool) : { c with init9 := init9, crc32LsbFirst := lsbFirst }.WellFormed :=
  { h with }

end Sys2Proof

namespace Sys2Proof.Machine

/-! ### Stepping and the transition function (rules R6, R7, R93) -/

/-- A command whose transition keeps the block only answers. -/
theorem exec_of_perform_same {i : Instr} {s : State} {r : Response}
    (h : perform cfg i s.blk = (s.blk, r)) : exec i s = .next { s with resp := some r } := by
  rw [exec_next, h, State.answer_same]

/-- Settles O7: both sides answer with the transition of the decoded command. -/
theorem stepRunsDecodedCommand : Obligations.StepRunsDecodedCommand := by
  intro s packet rest i hinputs hdecode _
  rw [step_command hinputs hdecode, exec_next]

/-- Settles O8: `exec_next` says it arm by arm. -/
theorem execIsTransitionAtHardwareConfiguration :
    Obligations.ExecIsTransitionAtHardwareConfiguration := exec_next

/-- Settles O9: the opaque configuration is well formed, and the two values set on it are the
defaults. -/
theorem hardwareConfigurationWellFormed : Obligations.HardwareConfigurationWellFormed :=
  ⟨Config.built.wellFormed.with_codec_parameters 0x00#8 true, rfl, rfl⟩

end Sys2Proof.Machine
end

section
/-! PROOFS. The table-driven CRC register (rule R14) and the CRC-16 and CRC-32 commands
(`40_errorcodec.md` rules R130 to R143). -/

namespace Sys2Proof.Machine

open Sys2Proof.Spec (tableRun)

/-! ### The register splits into its top byte and the rest -/

/-- While the top `n` bits are clear, `n` shifts never meet the polynomial. -/
theorem crcShift_eq_shiftLeft {W : Nat} (P : BitVec W) {n : Nat} {c : BitVec W}
    (h : ∀ i, W - n ≤ i → c.getLsbD i = false) : crcShift P n c = c <<< n := by
  induction n generalizing c with
  | zero => simp [crcShift]
  | succ n ih =>
    have hmsb : c.msb = false := by rw [BitVec.msb_eq_getLsbD_last]; exact h _ (by omega)
    have hshift : ∀ i, W - n ≤ i → (c <<< 1).getLsbD i = false := by
      intro i hi
      rw [BitVec.getLsbD_shiftLeft, h (i - 1) (by omega), Bool.and_false]
    calc crcShift P (n + 1) c
        = crcShift P n (c <<< 1) := by simp [crcShift, crcBit, hmsb]
      _ = (c <<< 1) <<< n := ih hshift
      _ = c <<< (n + 1) := by rw [← BitVec.shiftLeft_add, Nat.add_comm]

/-- The register without its top byte. -/
def belowTopByte {W : Nat} (c : BitVec W) : BitVec W := c <<< 8 >>> 8

theorem getLsbD_belowTopByte {W : Nat} (c : BitVec W) (i : Nat) :
    (belowTopByte c).getLsbD i = (decide (i < W - 8) && c.getLsbD i) := by
  have hlow : 8 + i < W ↔ i < W - 8 := by omega
  simp [belowTopByte, hlow]

/-- A register of at least eight bits is its top byte, in place, and its other bits. -/
theorem topByte_xor_belowTopByte {W : Nat} (hW : 8 ≤ W) (c : BitVec W) :
    ((c >>> (W - 8)).setWidth 8).setWidth W <<< (W - 8) ^^^ belowTopByte c = c := by
  apply BitVec.eq_of_getLsbD_eq
  intro i hi
  rw [BitVec.getLsbD_xor, getLsbD_belowTopByte]
  by_cases htop : i < W - 8
  · simp [htop]
  · have hbyte : i - (W - 8) < 8 := by omega
    have hplace : W - 8 + (i - (W - 8)) = i := by omega
    simp [htop, hi, hbyte, hplace]

/-- Eight shifts move the bits below the top byte up unchanged. -/
theorem crcShift_belowTopByte {W : Nat} (P c : BitVec W) :
    crcShift P 8 (belowTopByte c) = c <<< 8 := by
  rw [crcShift_eq_shiftLeft P (fun i hi => by simp [getLsbD_belowTopByte, Nat.not_lt.2 hi])]
  apply BitVec.eq_of_getLsbD_eq
  intro i hi
  rcases Nat.lt_or_ge i 8 with hlow | hhigh
  · simp [hlow]
  · have hlt : i - 8 < W - 8 := by omega
    simp [getLsbD_belowTopByte, hlt]

/-- The bit-serial step of a byte is one look-up and one shift: the top byte enters the table, the bits
below it only move (rule R14). -/
theorem crcUpdate_eq_table {W : Nat} (hW : 8 ≤ W) (P c : BitVec W) (b : Byte) :
    crcUpdate P c b = crcTable P ((c >>> (W - 8)).setWidth 8 ^^^ b) ^^^ (c <<< 8) := by
  have hsplit : c ^^^ b.setWidth W <<< (W - 8)
      = ((c >>> (W - 8)).setWidth 8 ^^^ b).setWidth W <<< (W - 8) ^^^ belowTopByte c := by
    conv_lhs => rw [← topByte_xor_belowTopByte hW c]
    rw [BitVec.setWidth_xor, BitVec.shiftLeft_xor_distrib]
    ac_rfl
  calc crcUpdate P c b
      = crcShift P 8 (((c >>> (W - 8)).setWidth 8 ^^^ b).setWidth W <<< (W - 8))
          ^^^ crcShift P 8 (belowTopByte c) := by rw [crcUpdate, hsplit, crcShift_xor]
    _ = crcTable P ((c >>> (W - 8)).setWidth 8 ^^^ b) ^^^ (c <<< 8) := by
      rw [crcShift_belowTopByte, crcTable, crcUpdate, BitVec.zero_xor]

/-- Settles O22: `crcUpdate_eq_table`, and the listed entries by evaluating the register. -/
theorem tableDrivenStepEqualsBitSerial : Obligations.TableDrivenStepEqualsBitSerial :=
  ⟨fun _ P c b hW => crcUpdate_eq_table hW P c b, by decide, by decide, by decide⟩

/-- A whole run by look-up is the bit-serial run (rule R14). -/
theorem tableRun_eq_crcRun {W : Nat} (hW : 8 ≤ W) (P init : BitVec W) (B : Buffer) :
    tableRun P init B = crcRun P init B := by
  unfold tableRun crcRun
  congr 1
  funext c b
  exact (crcUpdate_eq_table hW P c b).symm

/-! ### Reading the trailer byte by byte -/

theorem drop_eq_getD_cons {B : Buffer} {k : Nat} (h : k < B.length) :
    B.drop k = B.getD k 0 :: B.drop (k + 1) := by
  rw [List.drop_eq_getElem_cons h, ← List.getElem_eq_getD]

/-- A trailer of two bytes, each named by its offset. -/
theorem trailerMatches_pair {B : Buffer} (h : 2 ≤ B.length) (x y : Byte) :
    trailerMatches B [x, y]
      = decide (B.getD (B.length - 2) 0 = x ∧ B.getD (B.length - 1) 0 = y) := by
  have h1 : B.length - 2 + 1 = B.length - 1 := by omega
  have hdrop : B.drop (B.length - 2) = [B.getD (B.length - 2) 0, B.getD (B.length - 1) 0] := by
    rw [drop_eq_getD_cons (by omega), h1, drop_eq_getD_cons (by omega),
      List.drop_of_length_le (by omega)]
  simp [trailerMatches, hdrop]

/-- A trailer of four bytes, each named by its offset. -/
theorem trailerMatches_quad {B : Buffer} (h : 4 ≤ B.length) (w x y z : Byte) :
    trailerMatches B [w, x, y, z]
      = decide (B.getD (B.length - 4) 0 = w ∧ B.getD (B.length - 3) 0 = x
        ∧ B.getD (B.length - 2) 0 = y ∧ B.getD (B.length - 1) 0 = z) := by
  have h1 : B.length - 4 + 1 = B.length - 3 := by omega
  have h2 : B.length - 3 + 1 = B.length - 2 := by omega
  have h3 : B.length - 2 + 1 = B.length - 1 := by omega
  have hdrop : B.drop (B.length - 4) = [B.getD (B.length - 4) 0, B.getD (B.length - 3) 0,
      B.getD (B.length - 2) 0, B.getD (B.length - 1) 0] := by
    rw [drop_eq_getD_cons (by omega), h1, drop_eq_getD_cons (by omega), h2,
      drop_eq_getD_cons (by omega), h3, drop_eq_getD_cons (by omega),
      List.drop_of_length_le (by omega)]
  simp [trailerMatches, hdrop]

/-! ### The commands (rules R120, R131 to R143) -/

/-- A codec command on a ready block and a payload of its minimum length only answers (rule R120). -/
theorem exec_of_codec {i : Instr} {s : State} {minLen : Nat} {p : Buffer} {r : Response}
    (hdo : perform cfg i s.blk = codec minLen p s.blk r) (hready : s.blk.fault = false)
    (hlen : minLen ≤ p.length) : exec i s = .next { s with resp := some r } := by
  apply exec_of_perform_same
  rw [hdo]
  rcases codec_cases minLen p r hready with ⟨hshort, _⟩ | ⟨_, heq⟩
  · omega
  · exact heq

theorem crc16Value_eq_tableRun (P init : BitVec 16) (B : Buffer) :
    crc16Value P init B = ~~~ tableRun P init (B.take (B.length - 2)) := by
  rw [tableRun_eq_crcRun (by decide), crc16Value]

theorem crc32Value_eq_tableRun (B : Buffer) :
    crc32Value B = ~~~ tableRun poly32 init32 (B.take (B.length - 4)) := by
  rw [tableRun_eq_crcRun (by decide), crc32Value]

/-- Settles O23: the value by look-up, then the trailer's two bytes, high byte first. -/
theorem crc16VariantOne : Obligations.Crc16VariantOne := by
  intro p s hready hlen n v
  have hv : crc16aValue p = v := crc16Value_eq_tableRun poly16v1 init16v1 p
  constructor
  · rw [exec_of_codec (i := .chk16a p) rfl hready hlen, check16a, trailer16a,
      trailerMatches_pair (by omega), hv]
    rfl
  · rw [exec_of_codec (i := .add16a p) rfl hready hlen, hv]
    rfl

/-- Settles O24: as O23, low byte first. -/
theorem crc16VariantTwo : Obligations.Crc16VariantTwo := by
  intro p s hready hlen n v
  have hv : crc16bValue p = v := crc16Value_eq_tableRun poly16v2 init16v2 p
  constructor
  · rw [exec_of_codec (i := .chk16b p) rfl hready hlen, check16b, trailer16b,
      trailerMatches_pair (by omega), hv]
    rfl
  · rw [exec_of_codec (i := .add16b p) rfl hready hlen, hv]
    rfl

/-- Settles O25: the value by look-up, then the trailer's four bytes, least significant first as the
hardware's configuration has it. -/
theorem crc32LeastSignificantByteFirst : Obligations.Crc32LeastSignificantByteFirst := by
  intro p s hready hlen n v
  have hv : crc32Value p = v := crc32Value_eq_tableRun p
  have htrailer : trailer32 cfg.crc32LsbFirst v
      = [byteOf32 v 0, byteOf32 v 1, byteOf32 v 2, byteOf32 v 3] := rfl
  constructor
  · rw [exec_of_codec (i := .chk32 p) rfl hready hlen, check32, hv, htrailer,
      trailerMatches_quad (by omega)]
    rfl
  · rw [exec_of_codec (i := .add32 p) rfl hready hlen, hv, htrailer]
    rfl

end Sys2Proof.Machine
end

section
/-! PROOFS. `RDSTAT` (`44_control.md` rule R250) against the table of status words (`10_state.md` rules
R44, R45). -/

namespace Sys2Proof.Machine

open Sys2Proof.Spec (statusTable selectorDefined)

/-! ### The words of the defined selectors (rules R44, R45) -/

theorem flagBit_eq (f : Bool) : flagBit f = BitVec.ofNat 32 (if f then 1 else 0) := by
  cases f <;> rfl

theorem RssiStats.avgWord_eq (r : RssiStats) : r.avgWord = if r.count = 0#32 then 0#32
    else BitVec.ofInt 32 (r.sum.toInt.tdiv r.count.toNat) := by
  unfold RssiStats.avgWord RssiStats.avg
  split <;> rfl

theorem flagBit_isBusy (b : Block) : flagBit (isBusy b)
    = BitVec.ofNat 32 (if b.rf.st = .idle ∧ b.net.st = .idle then 0 else 1) := by
  by_cases hidle : b.rf.st = .idle ∧ b.net.st = .idle
  · simp [isBusy, flagBit, hidle]
  · have hbusy : b.rf.st ≠ .idle ∨ b.net.st ≠ .idle := not_and_or.1 hidle
    rw [isBusy, decide_eq_true hbusy, if_neg hidle]
    rfl

/-- Every entry of the table is read by its selector. The global words are taken one by one, an encoded
field by the cases of its values; the words of a half are its fields. -/
theorem statusWord_of_mem_statusTable (b : Block) :
    ∀ w ∈ statusTable b, statusWord b w.1 = some w.2 := by
  simp only [statusTable, List.forall_mem_append]
  refine ⟨⟨?globals, ?rf⟩, ?net⟩
  case globals =>
    simp only [List.forall_mem_cons]
    refine ⟨?rfState, ?netState, ?context, rfl, rfl, ?rfTimer, rfl, ?netTimer, rfl, ?hangTimer, rfl,
      rfl, ?pending, rfl, ?busy, nofun⟩
    case rfState =>
      show some ((stateCode b.rf.st).setWidth 32) = _
      cases b.rf.st <;> rfl
    case netState =>
      show some ((stateCode b.net.st).setWidth 32) = _
      cases b.net.st <;> rfl
    case context =>
      show some (flagBit b.ctx.valid ||| flagBit b.ctx.grp <<< 1
        ||| (originCode b.ctx.owner).setWidth 32 <<< 2) = _
      cases b.ctx.valid <;> cases b.ctx.grp <;> cases b.ctx.owner <;> rfl
    case rfTimer =>
      show some ((timerCode b.rf.tmo.ts).setWidth 32) = _
      cases b.rf.tmo.ts <;> rfl
    case netTimer =>
      show some ((timerCode b.net.tmo.ts).setWidth 32) = _
      cases b.net.tmo.ts <;> rfl
    case hangTimer =>
      show some ((timerCode b.ctx.hang.ts).setWidth 32) = _
      cases b.ctx.hang.ts <;> rfl
    case pending =>
      show some (flagBit b.pend.valid ||| (originCode b.pend.origin).setWidth 32 <<< 1) = _
      cases b.pend.valid <;> cases b.pend.origin <;> rfl
    case busy => exact congrArg some (flagBit_isBusy b)
  case rf =>
    simp only [List.forall_mem_cons]
    exact ⟨rfl, rfl, rfl, rfl, rfl, rfl, rfl, rfl, rfl, rfl, rfl, rfl, rfl, rfl, rfl,
      congrArg some b.rf.rssi.avgWord_eq, congrArg some (flagBit_eq b.rf.lcValid), rfl, nofun⟩
  case net =>
    simp only [List.forall_mem_cons]
    exact ⟨rfl, rfl, rfl, rfl, rfl, rfl, rfl, rfl, rfl, rfl, rfl, rfl, rfl, rfl, rfl,
      congrArg some b.net.rssi.avgWord_eq, congrArg some (flagBit_eq b.net.lcValid), rfl, nofun⟩

/-! ### Which selectors are defined -/

/-- The defined selectors: 15 global ones and 18 of each half. -/
def definedSelectors : List Byte :=
  (List.range' 0x01 15 ++ List.range' 0x20 18 ++ List.range' 0x40 18).map (BitVec.ofNat 8)

theorem map_fst_statusTable (b : Block) : (statusTable b).map Prod.fst = definedSelectors := rfl

theorem nodup_definedSelectors : definedSelectors.Nodup := by decide

theorem mem_definedSelectors (sel : Byte) : sel ∈ definedSelectors ↔ selectorDefined sel = true := by
  simp only [definedSelectors, selectorDefined, List.mem_map, List.mem_append, List.mem_range'_1,
    decide_eq_true_iff]
  constructor
  · rintro ⟨n, hn, rfl⟩
    bv_omega
  · intro h
    exact ⟨sel.toNat, by bv_omega, by simp⟩

theorem globalWord_eq_none {b : Block} {sel : Byte} (h : sel = 0x00#8 ∨ 0x0F#8 < sel) :
    globalWord b sel = none := by
  unfold globalWord
  split <;> simp_all

theorem halfWord_eq_none {h : Half} {k : Byte} (hk : 0x11#8 < k) : halfWord h k = none := by
  unfold halfWord
  split <;> simp_all

/-- An undefined selector lies past the words of its group, or is 0. -/
theorem statusWord_eq_none {b : Block} {sel : Byte} (h : selectorDefined sel = false) :
    statusWord b sel = none := by
  rw [selectorDefined, decide_eq_false_iff_not] at h
  unfold statusWord
  split
  · exact globalWord_eq_none (by bv_omega)
  · split
    · exact halfWord_eq_none (by bv_omega)
    · exact halfWord_eq_none (by bv_omega)

/-! ### The command (rule R250) -/

theorem exec_rdstat_of_some {s : State} {sel : Byte} {v : Word32} (hready : s.blk.fault = false)
    (h : statusWord s.blk sel = some v) : exec (.rdstat sel) s = .next { s with
      resp := some { status := .ok, result := true, res32 := v } } := by
  apply exec_of_perform_same
  simp only [perform, doRdstat, gate_ready hready, h]

theorem exec_rdstat_of_none {s : State} {sel : Byte} (hready : s.blk.fault = false)
    (h : statusWord s.blk sel = none) :
    exec (.rdstat sel) s = .next { s with resp := some Response.badCmd } := by
  apply exec_of_perform_same
  simp only [perform, doRdstat, gate_ready hready, h]

/-- Settles O54: the table's entries are what its selectors read, its selectors are the defined ones, and
any other selector reads nothing. -/
theorem rdstatReadsStatusWords : Obligations.RdstatReadsStatusWords := by
  intro s hready
  refine ⟨?defined, ?distinct, rfl, ?exactly, ?undefined⟩
  case defined =>
    intro w hw
    exact exec_rdstat_of_some hready (statusWord_of_mem_statusTable s.blk w hw)
  case distinct =>
    rw [map_fst_statusTable]
    exact nodup_definedSelectors
  case exactly =>
    intro sel
    rw [← mem_definedSelectors, ← map_fst_statusTable s.blk, List.mem_map]
  case undefined =>
    intro sel hsel
    exact exec_rdstat_of_none hready (statusWord_eq_none hsel)

end Sys2Proof.Machine
end

section
/-! PROOFS. What a frame and a command can do to the block, said once as inductive relations: every
statement about all frames or all commands is one induction on their cases. -/

namespace Sys2Proof.Machine

open Sys2Proof.Spec

variable {c : Cfg} {b : Block} {o : Origin}

/-! ### Ending a call that may be open (rule R219) -/

/-- `end_call` on an origin whose call may already have ended. -/
def endIfOpen (c : Cfg) (o : Origin) (reason : EndReason) (b : Block) : Block :=
  if (b.half o).st = .idle then b else endCall c o reason b

theorem endIfOpen_of_idle (reason : EndReason) (h : (b.half o).st = .idle) :
    endIfOpen c o reason b = b := if_pos h

theorem endIfOpen_of_open (reason : EndReason) (h : (b.half o).st ≠ .idle) :
    endIfOpen c o reason b = endCall c o reason b := if_neg h

theorem endIfOpen_cases (c : Cfg) (o : Origin) (reason : EndReason) (b : Block) :
    ((b.half o).st = .idle ∧ endIfOpen c o reason b = b) ∨
    ((b.half o).st ≠ .idle ∧ endIfOpen c o reason b = endCall c o reason b) := by
  by_cases h : (b.half o).st = .idle
  · exact .inl ⟨h, endIfOpen_of_idle reason h⟩
  · exact .inr ⟨h, endIfOpen_of_open reason h⟩

@[simp] theorem st_endIfOpen (c : Cfg) (o : Origin) (reason : EndReason) (b : Block) :
    ((endIfOpen c o reason b).half o).st = .idle := by
  rcases endIfOpen_cases c o reason b with ⟨h, e⟩ | ⟨_, e⟩ <;> rw [e]
  · exact h
  · rw [half_endCall]
    rfl

@[simp] theorem half_endIfOpen_other (c : Cfg) (o : Origin) (reason : EndReason) (b : Block) :
    (endIfOpen c o reason b).half (other o) = b.half (other o) := by
  rcases endIfOpen_cases c o reason b with ⟨_, e⟩ | ⟨_, e⟩ <;> simp [e]

@[simp] theorem half_endIfOpen_of_other (c : Cfg) (o : Origin) (reason : EndReason) (b : Block) :
    (endIfOpen c (other o) reason b).half o = b.half o := by
  simpa using half_endIfOpen_other c (other o) reason b

@[simp] theorem endIfOpen_q (c : Cfg) (o : Origin) (reason : EndReason) (b : Block) :
    (endIfOpen c o reason b).q = b.q := by
  rcases endIfOpen_cases c o reason b with ⟨_, e⟩ | ⟨_, e⟩ <;> simp [e]

@[simp] theorem endIfOpen_pend (c : Cfg) (o : Origin) (reason : EndReason) (b : Block) :
    (endIfOpen c o reason b).pend = b.pend := by
  rcases endIfOpen_cases c o reason b with ⟨_, e⟩ | ⟨_, e⟩ <;> simp [e]

/-! ### Frames (rules R210 to R223) -/

/-- The block in which a header of `o` opens its call: the call it forces to end and the call it
pre-empts have ended (rules R218, R221). -/
def clearedFor (c : Cfg) (o : Origin) (b : Block) : Block :=
  endIfOpen c (other o) .preempted (endIfOpen c o .forced b)

/-- The block of a call whose header is repeated, before the header is accepted (rule R217). -/
def continuedCall (o : Origin) (h : HeaderIds) (b : Block) : Block :=
  { setState o .active b with ctx := { (setState o .active b).ctx with src := h.src } }

/-- What a frame of origin `o` can do to the block. -/
inductive FrameEffect (c : Cfg) (o : Origin) (F : Buffer) (rssi : Option (BitVec 16)) (b : Block) :
    Block → Prop
  | backpressure : b.pend.valid = true → FrameEffect c o F rssi b { b with cntBp := satInc b.cntBp }
  | counted (cnt : Counters) :
    FrameEffect c o F rssi b (b.setHalf o { b.half o with cnt := cnt })
  | payload {kind : SyncKind} {type : Byte} {p : Profile} : b.pend.valid = false →
    validate c F = .valid kind type p → (b.half o).st ≠ .idle →
    FrameEffect c o F rssi b (acceptQueued c o F p rssi (setState o .active b))
  | terminated {kind : SyncKind} {type : Byte} {p : Profile} :
    validate c F = .valid kind type p → (b.half o).st ≠ .idle →
    FrameEffect c o F rssi b (endCall c o .graceful (acceptUnqueued c o F p rssi b))
  | repeated {kind : SyncKind} {type : Byte} {p : Profile} : b.pend.valid = false →
    validate c F = .valid kind type p → (b.half o).st ≠ .idle →
    b.ctx.sameDst (c.hdrOf F).dst (c.hdrOf F).grp = true →
    FrameEffect c o F rssi b (acceptQueued c o F p rssi (continuedCall o (c.hdrOf F) b))
  | refused (k : ErrorClass) : FrameEffect c o F rssi b (countError o k (endIfOpen c o .forced b))
  | opened {kind : SyncKind} {type : Byte} {p : Profile} : b.pend.valid = false →
    validate c F = .valid kind type p → p.role = .header → idsOk c (c.hdrOf F) = true →
    FrameEffect c o F rssi b (acceptQueued c o F p rssi (openHalf o (c.hdrOf F) (clearedFor c o b)))

/-! The fields of the blocks that these effects name. -/

@[simp] theorem half_setState (o : Origin) (st : ProtocolState) (b : Block) :
    (setState o st b).half o = { b.half o with st := st } := by simp [setState]
@[simp] theorem half_setState_other (o : Origin) (st : ProtocolState) (b : Block) :
    (setState o st b).half (other o) = b.half (other o) := by simp [setState]
@[simp] theorem setState_ctx (o : Origin) (st : ProtocolState) (b : Block) :
    (setState o st b).ctx = b.ctx := by simp [setState]
@[simp] theorem setState_q (o : Origin) (st : ProtocolState) (b : Block) :
    (setState o st b).q = b.q := by simp [setState]
@[simp] theorem setState_pend (o : Origin) (st : ProtocolState) (b : Block) :
    (setState o st b).pend = b.pend := by simp [setState]

@[simp] theorem half_continuedCall (o : Origin) (h : HeaderIds) (b : Block) :
    (continuedCall o h b).half o = { b.half o with st := .active } := by cases o <;> rfl
@[simp] theorem half_continuedCall_other (o : Origin) (h : HeaderIds) (b : Block) :
    (continuedCall o h b).half (other o) = b.half (other o) := by cases o <;> rfl
@[simp] theorem continuedCall_q (o : Origin) (h : HeaderIds) (b : Block) :
    (continuedCall o h b).q = b.q := by simp [continuedCall]
@[simp] theorem continuedCall_pend (o : Origin) (h : HeaderIds) (b : Block) :
    (continuedCall o h b).pend = b.pend := by simp [continuedCall]

@[simp] theorem st_clearedFor (c : Cfg) (o : Origin) (b : Block) :
    ((clearedFor c o b).half o).st = .idle := by simp [clearedFor]
@[simp] theorem st_clearedFor_other (c : Cfg) (o : Origin) (b : Block) :
    ((clearedFor c o b).half (other o)).st = .idle := by simp [clearedFor]
@[simp] theorem clearedFor_q (c : Cfg) (o : Origin) (b : Block) : (clearedFor c o b).q = b.q := by
  simp [clearedFor]
@[simp] theorem clearedFor_pend (c : Cfg) (o : Origin) (b : Block) :
    (clearedFor c o b).pend = b.pend := by simp [clearedFor]

@[simp] theorem half_acceptUnqueued_other (c : Cfg) (o : Origin) (F : Buffer) (p : Profile)
    (rssi : Option (BitVec 16)) (b : Block) :
    (acceptUnqueued c o F p rssi b).half (other o) = b.half (other o) := by simp [acceptUnqueued]
@[simp] theorem acceptUnqueued_q (c : Cfg) (o : Origin) (F : Buffer) (p : Profile)
    (rssi : Option (BitVec 16)) (b : Block) : (acceptUnqueued c o F p rssi b).q = b.q := by
  simp [acceptUnqueued]
@[simp] theorem acceptUnqueued_pend (c : Cfg) (o : Origin) (F : Buffer) (p : Profile)
    (rssi : Option (BitVec 16)) (b : Block) : (acceptUnqueued c o F p rssi b).pend = b.pend := by
  simp [acceptUnqueued]

@[simp] theorem half_acceptQueued (c : Cfg) (o : Origin) (F : Buffer) (p : Profile)
    (rssi : Option (BitVec 16)) (b : Block) :
    (acceptQueued c o F p rssi b).half o = (b.half o).accept c o F p rssi true := by
  simp [acceptQueued]
@[simp] theorem half_acceptQueued_other (c : Cfg) (o : Origin) (F : Buffer) (p : Profile)
    (rssi : Option (BitVec 16)) (b : Block) :
    (acceptQueued c o F p rssi b).half (other o) = b.half (other o) := by simp [acceptQueued]
@[simp] theorem acceptQueued_ctx (c : Cfg) (o : Origin) (F : Buffer) (p : Profile)
    (rssi : Option (BitVec 16)) (b : Block) : (acceptQueued c o F p rssi b).ctx = b.ctx := by
  simp [acceptQueued]

@[simp] theorem st_accept (c : Cfg) (o : Origin) (F : Buffer) (p : Profile)
    (rssi : Option (BitVec 16)) (restart : Bool) (h : Half) :
    (h.accept c o F p rssi restart).st = h.st := rfl

section

variable {F : Buffer} {rssi : Option (BitVec 16)} {kind : SyncKind} {type : Byte} {p : Profile}

theorem processPayload_effect (hp : b.pend.valid = false) (hv : validate c F = .valid kind type p) :
    FrameEffect c o F rssi b (processPayload c o F p rssi b).1 := by
  unfold processPayload
  split
  · exact .counted _
  · next hopen => exact .payload hp hv hopen

theorem processTerminator_effect (hv : validate c F = .valid kind type p) :
    FrameEffect c o F rssi b (processTerminator c o F p rssi b).1 := by
  unfold processTerminator
  split
  · exact .counted _
  · next hopen =>
    split
    · exact .counted _
    · exact .terminated hv hopen

/-- Admission, from the block in which the origin's own call, if there was one, was forced to end. -/
theorem admitHeader_effect (hp : b.pend.valid = false) (hv : validate c F = .valid kind type p)
    (hr : p.role = .header) (events : List Event) : FrameEffect c o F rssi b
      (admitHeader c o F p rssi (c.hdrOf F) events (endIfOpen c o .forced b)).1 := by
  rcases admitHeader_cases c o F p rssi (c.hdrOf F) events (endIfOpen c o .forced b) with
    ⟨k, _, _, _, e⟩ | ⟨hids, hother, _, e⟩ | ⟨hids, hother, e⟩ <;> rw [e]
  · exact .refused k
  · have hcleared : clearedFor c o b = endCall c (other o) .preempted (endIfOpen c o .forced b) :=
      endIfOpen_of_open _ hother
    rw [← hcleared]
    exact .opened hp hv hr hids
  · have hcleared : clearedFor c o b = endIfOpen c o .forced b := endIfOpen_of_idle _ hother
    rw [← hcleared]
    exact .opened hp hv hr hids

theorem processHeader_effect (hp : b.pend.valid = false) (hv : validate c F = .valid kind type p)
    (hr : p.role = .header) : FrameEffect c o F rssi b (processHeader c o F p rssi b).1 := by
  unfold processHeader
  simp only
  split
  · next hidle =>
    have hadmit := admitHeader_effect (rssi := rssi) (o := o) hp hv hr []
    rwa [endIfOpen_of_idle _ hidle] at hadmit
  · next hopen =>
    split
    · next hsame => exact .repeated hp hv hopen hsame
    · rw [← endIfOpen_of_open _ hopen]
      exact admitHeader_effect hp hv hr _

/-- Every frame has one of these effects. -/
theorem process_effect (c : Cfg) (o : Origin) (F : Buffer) (rssi : Option (BitVec 16)) (b : Block) :
    FrameEffect c o F rssi b (process c o F rssi b).1 := by
  rcases process_cases c o F rssi b with ⟨hp, e⟩ | ⟨_, _, _, _, _, e⟩ |
    ⟨hp, _, _, p, hv, ⟨_, e⟩ | ⟨_, e⟩ | ⟨hr, e⟩⟩ <;> rw [e]
  · exact .backpressure hp
  · exact .counted _
  · exact processPayload_effect hp hv
  · exact processTerminator_effect hv
  · exact processHeader_effect hp hv hr

end

/-! ### Commands (rules R86, R120, R263) -/

/-- A codec command is `codec` at its minimum length, with a response fixed by its payload and the
configuration. -/
theorem perform_codec {i : Instr} {m : Nat} (c : Cfg) (h : codecMinimum i = some m) :
    ∃ r, ∀ b, perform c i b = codec m i.payload b r := by
  cases i <;> cases h <;> exact ⟨_, fun _ => rfl⟩

theorem perform_offer (c : Cfg) (o : Origin) (rssi : Option (BitVec 16)) (F : Buffer) (b : Block) :
    perform c (offer o rssi F) b = gate b (process c o F (sampleOf o rssi) b) := by
  cases o <;> rfl

/-- What a command can do: the block and the response after it. -/
inductive CommandEffect (c : Cfg) (b : Block) : Instr → Block × Response → Prop
  | answered (i : Instr) (r : Response) : CommandEffect c b i (b, r)
  | fatal {i : Instr} {m : Nat} : codecMinimum i = some m → i.payload.length < m →
    CommandEffect c b i (raiseFatal codecShort b)
  | frame (o : Origin) (rssi : Option (BitVec 16)) (F : Buffer) :
    CommandEffect c b (offer o rssi F) (process c o F (sampleOf o rssi) b)
  | delivered {e : QEntry} {rest : List QEntry} : b.q = e :: rest →
    CommandEffect c b .getframe ({ b with q := rest },
      { status := .ok, result := true
        res32 := (originCode e.origin).setWidth 32, payload := e.bytes })
  | clock (ms : Word32) (r : Response) : CommandEffect c b (.clock ms) ((tick c ms b).1, r)
  | reset (r : Response) : CommandEffect c b .reset
    ({ Block.reset c with fault := b.fault, faultCause := b.faultCause }, r)

/-- On a ready block the effect is that of the command's body behind the gate. -/
theorem effect_of_gate {i : Instr} {body : Block × Response} (hready : b.fault = false)
    (hdo : perform c i b = gate b body) (h : CommandEffect c b i body) :
    CommandEffect c b i (perform c i b) := by
  rwa [hdo, gate_ready hready]

theorem codec_effect {i : Instr} {m : Nat} (hready : b.fault = false)
    (h : codecMinimum i = some m) : CommandEffect c b i (perform c i b) := by
  obtain ⟨r, hdo⟩ := perform_codec c h
  rw [hdo]
  rcases codec_cases m i.payload r hready with ⟨hshort, e⟩ | ⟨_, e⟩ <;> rw [e]
  · exact .fatal h hshort
  · exact .answered i r

theorem offer_effect (hready : b.fault = false) (o : Origin) (rssi : Option (BitVec 16))
    (F : Buffer) : CommandEffect c b (offer o rssi F) (perform c (offer o rssi F) b) :=
  effect_of_gate hready (perform_offer c o rssi F b) (.frame o rssi F)

/-- Every command has one of these effects. -/
theorem perform_effect (c : Cfg) (i : Instr) (b : Block) : CommandEffect c b i (perform c i b) := by
  by_cases hfault : b.fault = true
  · rw [perform_faulted c i hfault]
    exact .answered i _
  · have hready : b.fault = false := by simpa using hfault
    cases i with
    | chk5 | enc5 | chk16a | add16a | chk16b | add16b | chk32 | add32 | crc8 | crc9 =>
      exact codec_effect hready rfl
    | sync | validate | isbusy | rdlc => exact effect_of_gate hready rfl (.answered _ _)
    | procframe rssi F => exact offer_effect hready .rf rssi F
    | procnet frame =>
      cases frame with
      | none => exact effect_of_gate hready rfl (.answered _ _)
      | some F => exact offer_effect hready .net none F
    | getframe =>
      refine effect_of_gate hready rfl ?_
      split
      · exact .answered _ _
      · next hq => exact .delivered (qPop_eq_some.1 hq)
    | clock ms => exact effect_of_gate hready rfl (.clock ms _)
    | reset => exact effect_of_gate hready rfl (.reset _)
    | rdstat sel =>
      refine effect_of_gate hready rfl ?_
      split <;> exact .answered _ _

end Sys2Proof.Machine
end

section
/-! PROOFS. The RSSI record (`10_state.md` rules R31, R226): what a sample does to each statistic, why the
signed 48-bit sum never wraps, and where the average lies. -/

namespace Sys2Proof.Machine

/-! ### The record's fields after a sample -/

theorem toNat_count_rssiAdd {r : RssiStats} (x : BitVec 16) (h : r.count ≠ 0xFFFFFFFF#32) :
    (r.add x).count.toNat = r.count.toNat + 1 := by
  rw [RssiStats.add, if_neg h]
  bv_omega

theorem toInt_min_rssiAdd {r : RssiStats} (x : BitVec 16) (h : r.count ≠ 0xFFFFFFFF#32) :
    (r.add x).min.toInt = if r.count = 0#32 then x.toInt else min r.min.toInt x.toInt := by
  rw [RssiStats.add, if_neg h]
  by_cases hfirst : r.count = 0#32
  · simp [hfirst]
  · by_cases hlt : x.toInt < r.min.toInt
    · simp [hfirst, BitVec.slt_iff_toInt_lt, hlt, min_eq_right hlt.le]
    · simp [hfirst, BitVec.slt_iff_toInt_lt, hlt, min_eq_left (not_lt.1 hlt)]

theorem toInt_max_rssiAdd {r : RssiStats} (x : BitVec 16) (h : r.count ≠ 0xFFFFFFFF#32) :
    (r.add x).max.toInt = if r.count = 0#32 then x.toInt else max r.max.toInt x.toInt := by
  rw [RssiStats.add, if_neg h]
  by_cases hfirst : r.count = 0#32
  · simp [hfirst]
  · by_cases hlt : r.max.toInt < x.toInt
    · simp [hfirst, BitVec.slt_iff_toInt_lt, hlt, max_eq_right hlt.le]
    · simp [hfirst, BitVec.slt_iff_toInt_lt, hlt, max_eq_left (not_lt.1 hlt)]

/-- A count below its greatest value bounds the sum by `2 ^ 15` times itself, so one more sample fits in
48 bits. -/
theorem RssiStats.Bounded.toInt_sum_add {r : RssiStats} (hb : r.Bounded) (x : BitVec 16)
    (h : r.count ≠ 0xFFFFFFFF#32) : (r.add x).sum.toInt = r.sum.toInt + x.toInt := by
  obtain ⟨-, hlow, hhigh⟩ := hb
  have hcount : r.count.toNat < 2 ^ 32 - 1 := by bv_omega
  have hmin : -2 ^ 15 * (r.count.toNat : Int) ≤ r.min.toInt * r.count.toNat :=
    mul_le_mul_of_nonneg_right r.min.le_toInt (Int.natCast_nonneg _)
  have hmax : r.max.toInt * r.count.toNat ≤ 2 ^ 15 * (r.count.toNat : Int) :=
    mul_le_mul_of_nonneg_right r.max.toInt_lt.le (Int.natCast_nonneg _)
  have hx := x.le_toInt
  have hx' := x.toInt_lt
  rw [RssiStats.add, if_neg h, BitVec.toInt_add, BitVec.toInt_signExtend_of_le (by decide)]
  exact Int.bmod_eq_of_le (by omega) (by omega)

/-! ### The bound and the average -/

/-- The new least sample is at most the sample and, over the samples before, at most the old one. -/
theorem RssiStats.min_add_le {r : RssiStats} (x : BitVec 16) (h : r.count ≠ 0xFFFFFFFF#32) :
    (r.add x).min.toInt ≤ x.toInt ∧
      (r.add x).min.toInt * r.count.toNat ≤ r.min.toInt * r.count.toNat := by
  rw [toInt_min_rssiAdd x h]
  by_cases hfirst : r.count = 0#32
  · simp [hfirst]
  · rw [if_neg hfirst]
    exact ⟨min_le_right _ _, mul_le_mul_of_nonneg_right (min_le_left _ _) (Int.natCast_nonneg _)⟩

theorem RssiStats.le_max_add {r : RssiStats} (x : BitVec 16) (h : r.count ≠ 0xFFFFFFFF#32) :
    x.toInt ≤ (r.add x).max.toInt ∧
      r.max.toInt * r.count.toNat ≤ (r.add x).max.toInt * r.count.toNat := by
  rw [toInt_max_rssiAdd x h]
  by_cases hfirst : r.count = 0#32
  · simp [hfirst]
  · rw [if_neg hfirst]
    exact ⟨le_max_right _ _, mul_le_mul_of_nonneg_right (le_max_left _ _) (Int.natCast_nonneg _)⟩

/-- A sample leaves no record empty. -/
theorem RssiStats.count_add_ne_zero (r : RssiStats) (x : BitVec 16) : (r.add x).count ≠ 0#32 := by
  by_cases h : r.count = 0xFFFFFFFF#32
  · rw [add_saturated x h, h]
    decide
  · have hcount := toNat_count_rssiAdd x h
    intro hzero
    rw [hzero] at hcount
    simp at hcount

theorem RssiStats.Bounded.add {r : RssiStats} (hb : r.Bounded) (x : BitVec 16) :
    (r.add x).Bounded := by
  by_cases h : r.count = 0xFFFFFFFF#32
  · rwa [add_saturated x h]
  · have hsum := hb.toInt_sum_add x h
    obtain ⟨-, hlow, hhigh⟩ := hb
    obtain ⟨hmin, hminAll⟩ := min_add_le x h
    obtain ⟨hmax, hmaxAll⟩ := le_max_add x h
    refine ⟨fun hzero => absurd hzero (count_add_ne_zero r x), ?_⟩
    rw [toNat_count_rssiAdd x h, hsum]
    push_cast
    constructor <;> linarith

/-- The truncated quotient of a bounded sum lies between the bounds (rule R31). -/
theorem RssiStats.Bounded.avg_between {r : RssiStats} (hb : r.Bounded) (h : r.count ≠ 0#32) :
    r.min.toInt ≤ r.avg ∧ r.avg ≤ r.max.toInt := by
  obtain ⟨-, hlow, hhigh⟩ := hb
  have hpos : 0 < (r.count.toNat : Int) := by
    have hne : r.count.toNat ≠ 0 := by bv_omega
    omega
  rw [RssiStats.avg, if_neg h]
  constructor
  · calc r.min.toInt = (r.min.toInt * r.count.toNat).tdiv r.count.toNat :=
          (Int.mul_tdiv_cancel _ hpos.ne').symm
      _ ≤ r.sum.toInt.tdiv r.count.toNat := Int.tdiv_le_tdiv hpos hlow
  · calc r.sum.toInt.tdiv r.count.toNat
        ≤ (r.max.toInt * r.count.toNat).tdiv r.count.toNat := Int.tdiv_le_tdiv hpos hhigh
      _ = r.max.toInt := Int.mul_tdiv_cancel _ hpos.ne'

/-- Settles O46: the fields after a sample, then the bound, which places the average. -/
theorem rssiSampleUpdatesStatistics : Obligations.RssiSampleUpdatesStatistics := by
  intro r x hb
  refine ⟨RssiStats.add_saturated x, fun h => ?_, hb.add x, (hb.add x).avg_between ?_⟩
  · exact ⟨toNat_count_rssiAdd x h, toInt_min_rssiAdd x h, toInt_max_rssiAdd x h,
      hb.toInt_sum_add x h⟩
  · exact RssiStats.count_add_ne_zero r x

end Sys2Proof.Machine
end

section
/-! PROOFS. Reset (`10_state.md` rules R46, R47, `70_reset_and_hazards.md` rule R290). -/

namespace Sys2Proof.Machine

open Sys2Proof.Spec

/-- Settles O12: the step discards the block, and the reset block's fields are those of rule R46. -/
theorem hardwareResetGivesResetValues : Obligations.HardwareResetGivesResetValues := by
  refine ⟨?_, rfl, rfl, fun o => ?_, rfl, rfl, rfl, rfl⟩
  · intro s rest hinputs
    exact ⟨{ blk := Block.reset cfg, inputs := rest, resp := none },
      by simp [step, hinputs, hardwareReset_eq], rfl⟩
  · exact Block.reset_half cfg o

/-- Settles O13: the gate decides between RESET and FAULTED. -/
theorem resetCommandRestoresState : Obligations.ResetCommandRestoresState := by
  intro s
  refine ⟨fun hready => ?_, fun hfault => ?_⟩
  · rw [exec_next, perform, doReset, gate_ready hready]
    rfl
  · exact exec_of_perform_same (perform_faulted cfg .reset hfault)

end Sys2Proof.Machine
end

section
/-! PROOFS. The fault latch over a command and over a step (`10_state.md` rule R24, `60_exceptions.md` rule
R262), and the commands that read only their payload (rules R23, R67). -/

namespace Sys2Proof.Machine

open Sys2Proof.Spec

variable {c : Cfg} {b : Block}

@[simp] theorem refuseCommand_blk (b : Block) : (refuseCommand b).1 = b := by
  unfold refuseCommand gate
  split <;> rfl

/-- A command leaves the latch and its cause alone, or is a codec command that raises the fatal fault. -/
theorem CommandEffect.latch {i : Instr} {r : Block × Response} (h : CommandEffect c b i r) :
    (r.1.fault = b.fault ∧ r.1.faultCause = b.faultCause) ∨
    (∃ m, codecMinimum i = some m ∧ i.payload.length < m ∧ r = raiseFatal codecShort b) := by
  cases h with
  | answered => exact .inl ⟨rfl, rfl⟩
  | fatal hmin hshort => exact .inr ⟨_, hmin, hshort, rfl⟩
  | frame o rssi F => exact .inl (process_latch c o F _ b)
  | delivered => exact .inl ⟨rfl, rfl⟩
  | clock ms =>
    obtain ⟨hfault, hcause, -⟩ := sameDelivery_tick c ms b
    dsimp only
    exact .inl ⟨hfault, hcause⟩
  | reset => exact .inl ⟨rfl, rfl⟩

/-- Settles O17: of all that a step can do, only the fatal fault of a command sets a clear latch. -/
theorem latchSetOnlyByShortCodecPayload : Obligations.LatchSetOnlyByShortCodecPayload := by
  intro s t hstep hready hset
  rcases step_cases hstep with ⟨_, rfl⟩ | ⟨_, _, rfl⟩ | ⟨packet, rest, i, hinputs, hdecode, rfl⟩ |
    ⟨_, _, _, _, _, _, rfl⟩
  · simp [hready] at hset
  · simp at hset
  · rw [State.answer_blk] at hset ⊢
    rcases (perform_effect cfg i s.blk).latch with ⟨hsame, _⟩ | ⟨m, hmin, hshort, e⟩
    · simp [hsame, hready] at hset
    · exact ⟨packet, rest, i, m, hinputs, hdecode, hmin, hshort, by rw [e]; rfl⟩
  · simp [hready] at hset

/-- A codec command's response and fault are those of its payload length. -/
theorem exec_codec {i : Instr} {m : Nat} (h : codecMinimum i = some m) : ∃ r, ∀ s : State,
    s.blk.fault = false → exec i s = .next (s.answer
      (if i.payload.length < m then raiseFatal codecShort s.blk else (s.blk, r))) := by
  obtain ⟨r, hdo⟩ := perform_codec cfg h
  refine ⟨r, fun s hready => ?_⟩
  rw [exec_next, hdo, codec, gate_ready hready]

/-- Settles O19: the response is read from the payload and the configuration, before any state is given. -/
theorem payloadCommandsIgnoreState : Obligations.PayloadCommandsIgnoreState := by
  intro i hreads
  rcases hmin : codecMinimum i with _ | m
  · have hgate : ∃ r, ∀ b, perform cfg i b = gate b (b, r) := by
      cases i with
      | sync p => exact ⟨_, fun _ => rfl⟩
      | validate p => exact ⟨_, fun _ => rfl⟩
      | _ => simp [readsPayloadOnly, hmin] at hreads
    obtain ⟨r, hdo⟩ := hgate
    refine ⟨r, false, fun s hready => exec_of_perform_same ?_⟩
    rw [hdo, gate_ready hready]
  · obtain ⟨r, hexec⟩ := exec_codec hmin
    by_cases hshort : i.payload.length < m
    · refine ⟨{ status := .faultNow }, true, fun s hready => ?_⟩
      rw [hexec s hready, if_pos hshort]
      rfl
    · refine ⟨r, false, fun s hready => ?_⟩
      rw [hexec s hready, if_neg hshort]
      rfl

end Sys2Proof.Machine
end

section
/-! PROOFS. How a half leaves Idle (`44_control.md` rules R216, R220, R222) and the order of delivery
(`10_state.md` rule R41, `42_ringbuffer_timer.md` rule R173), over every frame and every command. -/

namespace Sys2Proof.Machine

open Sys2Proof.Spec

variable {c : Cfg} {b b' : Block} {o : Origin} {F : Buffer} {p : Profile} {rssi : Option (BitVec 16)}

/-! ### Leaving Idle -/

theorem idsOk_iff (h : HeaderIds) : idsOk c h = true ↔ lookupsAdmit c h := by
  unfold idsOk lookupsAdmit
  cases h.grp <;> simp

/-- A frame takes only the half of its own origin out of Idle, and only as a header that the lookups
admit; the half is then Receiving, the other one Idle, and the context its own. -/
theorem FrameEffect.opens (h : FrameEffect c o F rssi b b') {o' : Origin}
    (hidle : (b.half o').st = .idle) (hopen : (b'.half o').st ≠ .idle) :
    o' = o ∧ (b'.half o).st = .receiving ∧ (b'.half (other o)).st = .idle ∧ b'.ctx.valid = true ∧
      b'.ctx.owner = o ∧ ∃ kind type p, validate c F = .valid kind type p ∧ p.role = .header ∧
        lookupsAdmit c (c.hdrOf F) := by
  cases h with
  | backpressure => exact absurd (by simpa using hidle) hopen
  | counted =>
    refine absurd ?_ hopen
    rcases eq_or_eq_other o o' with rfl | rfl <;> simpa using hidle
  | payload _ _ hst | terminated _ hst | repeated _ _ hst =>
    rcases eq_or_eq_other o o' with rfl | rfl
    · exact absurd hidle hst
    · exact absurd (by simpa using hidle) hopen
  | refused =>
    refine absurd ?_ hopen
    rcases eq_or_eq_other o o' with rfl | rfl
    · simp
    · simpa using hidle
  | opened _ hv hr hids =>
    rcases eq_or_eq_other o o' with rfl | rfl
    · exact ⟨rfl, by simp, by simp, by simp [openContext], by simp [openContext],
        _, _, _, hv, hr, (idsOk_iff _).1 hids⟩
    · exact absurd (by simp) hopen

/-- The timeout step of an origin opens no call. -/
theorem st_expireHalf {o' : Origin} (h : (b.half o').st = .idle) :
    ((expireHalf c o b).1.half o').st = .idle := by
  rcases expireHalf_cases c o b with ⟨_, e⟩ | ⟨_, e⟩ <;> rw [e]
  · rcases eq_or_eq_other o o' with rfl | rfl
    · simp [Half.ended]
    · simpa using h
  · exact h

theorem half_expireHang (b : Block) (o : Origin) : (expireHang b).1.half o = b.half o := by
  rcases expireHang_cases b with ⟨_, e⟩ | ⟨_, e⟩ <;> simp [e]

/-- A `CLOCK` opens no call. -/
theorem st_tick (ms : Word32) (h : (b.half o).st = .idle) :
    ((tick c ms b).1.half o).st = .idle := by
  unfold tick
  simp only [half_expireHang]
  exact st_expireHalf (st_expireHalf (by simpa using h))

/-- Settles O45: of all commands, only a frame's can leave a half that was Idle not Idle. -/
theorem callsOpenOnlyByHeader : Obligations.CallsOpenOnlyByHeader := by
  rintro c i s t o ⟨rfl, -⟩ hidle hopen
  rw [State.answer_blk] at hopen ⊢
  have heffect := perform_effect c i s.blk
  generalize perform c i s.blk = r at hopen heffect ⊢
  cases heffect with
  | answered => exact absurd hidle hopen
  | fatal => exact absurd (by simpa [raiseFatal] using hidle) hopen
  | frame o' rssi F =>
    obtain ⟨rfl, hst, hother, hvalid, howner, kind, type, p, hv, hr, hadmit⟩ :=
      (process_effect c o' F (sampleOf o' rssi) s.blk).opens hidle hopen
    exact ⟨hst, hother, hvalid, howner, rssi, F, kind, type, p, rfl, hv, hr, hadmit⟩
  | delivered => exact absurd (by simpa using hidle) hopen
  | clock ms =>
    dsimp only at hopen
    exact absurd (st_tick ms hidle) hopen
  | reset => exact absurd (by cases o <;> rfl) hopen

/-! ### The order of delivery -/

/-- With no frame pending, an accepted frame is the last to be delivered; what else was done to the block
before it does not matter. -/
theorem undelivered_acceptQueued (hq : b'.q = b.q) (hpend : b'.pend = b.pend)
    (hp : b.pend.valid = false) :
    (acceptQueued c o F p rssi b').undelivered = b.undelivered ++ [⟨o, F⟩] := by
  rw [acceptQueued, undelivered_enqueue (by simpa [hpend] using hp),
    undelivered_congr (b := b) (by simpa using hq) (by simpa using hpend)]

/-- A frame leaves the frames awaiting delivery as they are, or is appended to them while none is
pending. -/
theorem FrameEffect.undelivered (h : FrameEffect c o F rssi b b') :
    b'.undelivered = b.undelivered ∨
    (b.pend.valid = false ∧ b'.undelivered = b.undelivered ++ [⟨o, F⟩]) := by
  cases h with
  | backpressure => exact .inl rfl
  | counted | terminated | refused => exact .inl (undelivered_congr (by simp) (by simp))
  | payload hp | repeated hp | opened hp =>
    exact .inr ⟨hp, undelivered_acceptQueued (by simp) (by simp) hp⟩

/-- A command that is not `RESET` leaves the frames awaiting delivery as they are, appends the frame it
offers, or returns and removes the first. -/
theorem CommandEffect.undelivered {i : Instr} {r : Block × Response} (h : CommandEffect c b i r)
    (hreset : i ≠ .reset) :
    r.1.undelivered = b.undelivered ∨
    (∃ o rssi F, i = offer o rssi F ∧ b.pend.valid = false ∧
      r.1.undelivered = b.undelivered ++ [⟨o, F⟩]) ∨
    (∃ e, b.undelivered = e :: r.1.undelivered ∧ r.2.payload = e.bytes) := by
  cases h with
  | answered => exact .inl rfl
  | fatal => exact .inl rfl
  | frame o rssi F =>
    rcases (process_effect c o F (sampleOf o rssi) b).undelivered with hsame | ⟨hp, happend⟩
    · exact .inl hsame
    · exact .inr (.inl ⟨o, rssi, F, rfl, hp, happend⟩)
  | @delivered e rest hq =>
    refine .inr (.inr ⟨e, ?_, rfl⟩)
    rw [Block.undelivered, hq]
    rfl
  | clock ms =>
    obtain ⟨-, -, -, hsame⟩ := sameDelivery_tick c ms b
    dsimp only
    exact .inl hsame
  | reset => exact absurd rfl hreset

/-- Settles O48: a step that is no reset waits, performs a command other than `RESET`, or refuses. -/
theorem deliveryKeepsAcceptanceOrder : Obligations.DeliveryKeepsAcceptanceOrder := by
  intro s t hstep hhardware hcommand
  rcases step_cases hstep with ⟨_, rfl⟩ | ⟨rest, hinputs, _⟩ | ⟨packet, rest, i, hinputs, hdecode, rfl⟩ |
    ⟨_, _, _, _, _, _, rfl⟩
  · exact .inl rfl
  · exact absurd hinputs (hhardware rest)
  · have hreset : i ≠ .reset := by
      rintro rfl
      exact hcommand packet rest hinputs hdecode
    rcases (perform_effect cfg i s.blk).undelivered hreset with
      hsame | ⟨o, rssi, F, rfl, hp, happend⟩ | ⟨e, hfirst, hpayload⟩
    · exact .inl hsame
    · exact .inr (.inl ⟨packet, rest, o, rssi, F, hinputs, hdecode, hp, happend⟩)
    · exact .inr (.inr ⟨e, hfirst, congrArg some hpayload⟩)
  · exact .inl (by simp)

end Sys2Proof.Machine
end

section
/-! PROOFS. `CLOCK` (`44_control.md` rules R240 to R245): its five steps in the order of the rules, and the
three ways a clock can go, by which timer expires. -/

namespace Sys2Proof.Machine

open Sys2Proof.Spec

variable {c : Cfg} {b : Block} {o : Origin} {ms : Word32} {t : Timer}

/-! ### One timer (rules R183, R184) -/

theorem advance_of_outlasts (h : outlasts ms t) : t.advance ms = later ms t := by
  rcases h with hstop | ⟨hrun, hlt⟩
  · rw [Timer.advance_of_not_running ms (by simp [hstop]), later, if_neg (by simp [hstop])]
  · rw [Timer.advance_of_lt hrun hlt, later, if_pos hrun]

theorem advance_of_expiresWithin (h : expiresWithin ms t) : t.advance ms = ⟨.expired, 0#32⟩ :=
  Timer.advance_of_ge h.1 h.2

theorem advance_of_stopped (h : t.ts = .stopped) : t.advance ms = t :=
  Timer.advance_of_not_running ms (by simp [h])

/-- A timer that outlasts the clock stays in its state. -/
theorem advance_ts_of_outlasts (h : outlasts ms t) : (t.advance ms).ts = t.ts := by
  rw [advance_of_outlasts h, later]
  split
  · next hrun => exact hrun.symm
  · rfl

theorem advance_ts_ne_expired (h : outlasts ms t) : (t.advance ms).ts ≠ .expired := by
  rw [advance_ts_of_outlasts h]
  rcases h with hstop | ⟨hrun, -⟩ <;> simp [*]

/-- A timer that has not expired outlasts the clock or expires in it. -/
theorem outlasts_or_expiresWithin (ms : Word32) (h : t.ts ≠ .expired) :
    outlasts ms t ∨ expiresWithin ms t := by
  rcases hts : t.ts with _ | _ | _
  · exact .inl (.inl hts)
  · rcases Nat.lt_or_ge ms.toNat t.rem.toNat with hlt | hge
    · exact .inl (.inr ⟨hts, hlt⟩)
    · exact .inr ⟨hts, hge⟩
  · exact absurd hts h

/-! ### The steps (rules R241, R243 to R245) -/

theorem retryPending_eq_retried (c : Cfg) (b : Block) : retryPending c b = retried c b := by
  unfold retried
  rcases retryPending_cases c b with ⟨hno, e⟩ | ⟨hp, hroom, e⟩ <;> rw [e]
  · rw [if_neg]
    rintro ⟨hp, hroom⟩
    rcases hno with hp' | hfull
    · simp [hp] at hp'
    · exact hroom hfull
  · rw [if_pos ⟨hp, hroom⟩]
    rfl

theorem expireHalf_of_not_expired (h : (b.half o).tmo.ts ≠ .expired) :
    expireHalf c o b = (b, []) := by simp [expireHalf, Timer.expired, h]

theorem expireHalf_of_expired (h : (b.half o).tmo.ts = .expired) :
    expireHalf c o b = (endCall c o .timeout b, endEvents o .timeout b) := by
  simp [expireHalf, Timer.expired, h]

theorem expireHang_of_not_expired (h : b.ctx.hang.ts ≠ .expired) : expireHang b = (b, []) := by
  simp [expireHang, Timer.expired, h]

/-- The hang timer's expiry clears the context, whatever it shows (rule R37). -/
theorem expireHang_of_expired (h : b.ctx.hang.ts = .expired) : expireHang b =
    ({ b with ctx := {} }, [contextEvent .hangExpired b.ctx.owner none b.ctx]) := by
  simp [expireHang, Timer.expired, h]

/-- With both timeouts stopped, time passes for the hang timer only. -/
theorem advanceTimers_of_stopped (hrf : b.rf.tmo.ts = .stopped) (hnet : b.net.tmo.ts = .stopped) :
    advanceTimers ms b = { b with ctx := { b.ctx with hang := b.ctx.hang.advance ms } } := by
  rw [advanceTimers, advance_of_stopped hrf, advance_of_stopped hnet]

/-- The end of a call discards what the clock did to its timeout and to the hang timer. -/
theorem endCall_advanceTimers (c : Cfg) (reason : EndReason)
    (h : (b.half (other o)).tmo.ts = .stopped) :
    endCall c o reason (advanceTimers ms b) = endCall c o reason b := by
  cases o <;> simp only [other, Block.half] at h <;>
    simp [endCall, advanceTimers, Block.setHalf, Block.half, Half.ended, advance_of_stopped h]

/-! ### The clock -/

/-- No timer expires: every running timer goes on. -/
theorem tick_of_outlasts (c : Cfg) (hrf : outlasts ms b.rf.tmo) (hnet : outlasts ms b.net.tmo)
    (hhang : outlasts ms b.ctx.hang) :
    tick c ms b = (advanceTimers ms (retryPending c b), []) := by
  have hrf' : expireHalf c .rf (advanceTimers ms (retryPending c b)) = _ :=
    expireHalf_of_not_expired (by simpa using advance_ts_ne_expired hrf)
  have hnet' : expireHalf c .net (advanceTimers ms (retryPending c b)) = _ :=
    expireHalf_of_not_expired (by simpa using advance_ts_ne_expired hnet)
  have hhang' : expireHang (advanceTimers ms (retryPending c b)) = _ :=
    expireHang_of_not_expired (by simpa using advance_ts_ne_expired hhang)
  simp [tick, hrf', hnet', hhang']

/-- A timeout is reached: the call ends, and this clock does not advance the hang timer it starts. -/
theorem tick_of_timeout (c : Cfg) (htmo : expiresWithin ms (b.half o).tmo)
    (hother : (b.half (other o)).tmo.ts = .stopped) :
    tick c ms b = (endCall c o .timeout (retryPending c b), endEvents o .timeout b) := by
  have hend : endCall c o .timeout (advanceTimers ms (retryPending c b))
      = endCall c o .timeout (retryPending c b) := endCall_advanceTimers c _ (by simpa using hother)
  have hevents : endEvents o .timeout (advanceTimers ms (retryPending c b))
      = endEvents o .timeout b := by simp [endEvents, contextEvent]
  have hself : expireHalf c o (advanceTimers ms (retryPending c b)) = _ :=
    expireHalf_of_expired (by simp [advance_of_expiresWithin htmo])
  have hbefore : expireHalf c (other o) (advanceTimers ms (retryPending c b)) = _ :=
    expireHalf_of_not_expired (by simp [advance_of_stopped hother, hother])
  have hafter : expireHalf c (other o) (endCall c o .timeout (retryPending c b)) = _ :=
    expireHalf_of_not_expired (by simp [hother])
  have hhang : expireHang (endCall c o .timeout (retryPending c b)) = _ :=
    expireHang_of_not_expired (by simp)
  rw [hend, hevents] at hself
  cases o <;> simp only [other] at hbefore hafter <;> simp [tick, hself, hbefore, hafter, hhang]

/-- The hang timer expires: the context is cleared. -/
theorem tick_of_hangExpiry (c : Cfg) (hrf : b.rf.tmo.ts = .stopped) (hnet : b.net.tmo.ts = .stopped)
    (hhang : expiresWithin ms b.ctx.hang) :
    tick c ms b = ({ retryPending c b with ctx := {} },
      [contextEvent .hangExpired b.ctx.owner none b.ctx]) := by
  have hrf' : expireHalf c .rf (advanceTimers ms (retryPending c b)) = _ :=
    expireHalf_of_not_expired (by simp [advance_of_stopped hrf, hrf])
  have hnet' : expireHalf c .net (advanceTimers ms (retryPending c b)) = _ :=
    expireHalf_of_not_expired (by simp [advance_of_stopped hnet, hnet])
  have hhang' : expireHang (advanceTimers ms (retryPending c b)) =
      ({ retryPending c b with ctx := {} }, [contextEvent .hangExpired b.ctx.owner none b.ctx]) := by
    rw [expireHang_of_expired (by simp [advance_of_expiresWithin hhang]),
      advanceTimers_of_stopped (by simpa using hrf) (by simpa using hnet)]
    simp [contextEvent]
  simp [tick, hrf', hnet', hhang']

theorem exec_clock {s : State} (hready : s.blk.fault = false) : exec (.clock ms) s = .next (s.answer
    ((tick cfg ms s.blk).1, { status := .ok, result := true, events := (tick cfg ms s.blk).2 })) := by
  rw [exec_next, perform, doClock, gate_ready hready]

/-- Settles O51: the clock in which the hang timer expires, over the retry of the pending frame. -/
theorem hangExpiryClearsContext : Obligations.HangExpiryClearsContext := by
  intro ms s hready hrf hnet hhang
  rw [exec_clock hready, tick_of_hangExpiry cfg hrf hnet hhang, retryPending_eq_retried]
  rfl

end Sys2Proof.Machine
end

section
/-! PROOFS. The invariant over every step (`10_state.md` rules R24 to R40, `44_control.md` rule R231): each
effect of a frame, the clock, and each other command lead from a good block to a good block. -/

namespace Sys2Proof.Machine

open Sys2Proof.Spec

variable {c : Cfg} {b b' : Block} {o : Origin} {F : Buffer} {p : Profile} {rssi : Option (BitVec 16)}

/-! ### Reset (rule R46) -/

theorem Timer.within_default (T : Word32) : ({} : Timer).Within T := Timer.within_stop T

theorem RssiStats.bounded_empty : ({} : RssiStats).Bounded := ⟨fun _ => rfl, by decide⟩

theorem Half.invariant_reset (c : Cfg) (o : Origin) : (Half.reset c).Invariant c o where
  not_ending := by simp
  timer := rfl
  timer_within := Timer.within_default _
  lc_length := List.length_replicate
  lc_unset := fun _ => rfl
  rssi := RssiStats.bounded_empty

/-- The cleared context is good in a block without a call (rules R37, R245). -/
theorem invariant_clearContext (hi : b.Invariant c) (hrf : b.rf.st = .idle) (hnet : b.net.st = .idle) :
    { b with ctx := {} }.Invariant c :=
  { hi with
    halves := fun o => by simpa using hi.halves o
    owner_context := fun o h => absurd (by cases o <;> assumption) h
    hang := rfl
    hang_within := Timer.within_default _
    context_clear := fun _ => rfl
    ids := ⟨Nat.two_pow_pos _, Nat.two_pow_pos _⟩ }

theorem invariant_reset (c : Cfg) : (Block.reset c).Invariant c where
  latch := rfl
  halves o := by rw [Block.reset_half]; exact Half.invariant_reset c o
  one_owner := .inl rfl
  owner_context o h := absurd (by simp) h
  hang := rfl
  hang_within := Timer.within_default _
  context_clear _ := rfl
  ids := ⟨Nat.two_pow_pos _, Nat.two_pow_pos _⟩
  net_rssi := rfl
  queue_bound := Nat.zero_le _
  queue_frames := nofun
  pend_frame := List.length_replicate
  pend_clear _ := rfl

/-- Settles O56: `invariant_reset` at the hardware's configuration. -/
theorem resetStateIsGood : Obligations.ResetStateIsGood := invariant_reset cfg

/-! ### Fields that carry no condition -/

/-- The latch may change together with its cause (rules R24, R262). -/
theorem invariant_setLatch (hi : b.Invariant c) {fault : Bool} {cause : Byte}
    (h : cause = if fault then codecShort else 0#8) :
    { b with fault := fault, faultCause := cause }.Invariant c :=
  { hi with
    latch := h
    halves := fun o => by simpa using hi.halves o
    owner_context := fun o h => hi.owner_context o (by simpa using h) }

/-- The backpressure counter is free (rule R42). -/
theorem invariant_setCntBp (hi : b.Invariant c) (n : Word32) : { b with cntBp := n }.Invariant c :=
  { hi with
    halves := fun o => by simpa using hi.halves o
    owner_context := fun o h => hi.owner_context o (by simpa using h) }

/-- The oldest entry may be taken from the queue (rule R172). -/
theorem invariant_pop (hi : b.Invariant c) {e : QEntry} {rest : List QEntry} (hq : b.q = e :: rest) :
    { b with q := rest }.Invariant c := by
  have hbound := hi.queue_bound
  have hframes := hi.queue_frames
  rw [hq] at hbound hframes
  exact { hi with
    halves := fun o => by simpa using hi.halves o
    owner_context := fun o h => hi.owner_context o (by simpa using h)
    queue_bound := Nat.le_of_succ_le hbound
    queue_frames := fun e' he' => hframes e' (List.mem_cons_of_mem _ he') }

theorem invariant_endIfOpen (hi : b.Invariant c) (o : Origin) (reason : EndReason) :
    (endIfOpen c o reason b).Invariant c := by
  rcases endIfOpen_cases c o reason b with ⟨_, e⟩ | ⟨hopen, e⟩ <;> rw [e]
  · exact hi
  · exact invariant_endCall hi reason hopen

/-! ### Accepted frames (rule R223) -/

/-- A sample, or none, keeps the record's bound. -/
theorem Half.bounded_accept {h : Half} (hb : h.rssi.Bounded) (restart : Bool) :
    (h.accept c o F p rssi restart).rssi.Bounded := by
  cases rssi with
  | none => exact hb
  | some raw => exact hb.add _

/-- The half of an open call accepts a frame of the frame length. -/
theorem Half.Invariant.accept {h : Half} (hc : c.WellFormed) (hh : h.Invariant c o)
    (hopen : h.st ≠ .idle) (hF : F.length = c.frameLen) (restart : Bool) :
    (h.accept c o F p rssi restart).Invariant c o where
  not_ending := hh.not_ending
  timer := by
    have hrun := hh.timer
    rw [if_neg hopen] at hrun
    rw [st_accept, if_neg hopen]
    cases restart with
    | false => exact hrun
    | true => rfl
  timer_within := by
    cases restart with
    | false => exact hh.timer_within
    | true => exact Timer.within_start _
  lc_length := by
    rcases hlc : p.carriesLc
    · simpa [Half.accept, hlc] using hh.lc_length
    · simpa [Half.accept, hlc] using hc.lc_width F hF
  lc_unset := by
    rcases hlc : p.carriesLc
    · simpa [Half.accept, hlc] using hh.lc_unset
    · simp [Half.accept, hlc]
  rssi := Half.bounded_accept hh.rssi restart

/-- An open call accepts a frame; the network half takes no sample (rule R236). -/
theorem invariant_setHalf_accept (hc : c.WellFormed) (hi : b.Invariant c)
    (hopen : (b.half o).st ≠ .idle) (hF : F.length = c.frameLen) (hn : o = .net → rssi = none)
    (restart : Bool) :
    (b.setHalf o ((b.half o).accept c o F p rssi restart)).Invariant c := by
  refine hi.setHalf ((hi.halves o).accept hc hopen hF restart) Iff.rfl ?_
  rintro rfl
  rw [hn rfl]
  exact hi.net_rssi

theorem invariant_acceptQueued (hc : c.WellFormed) (hi : b.Invariant c)
    (hopen : (b.half o).st ≠ .idle) (hF : F.length = c.frameLen) (hn : o = .net → rssi = none) :
    (acceptQueued c o F p rssi b).Invariant c :=
  invariant_enqueue (invariant_setHalf_accept hc hi hopen hF hn true) o hF

/-- A repeated header gives the open call its new source (rule R217). -/
theorem invariant_continuedCall (hi : b.Invariant c) (hopen : (b.half o).st ≠ .idle) {h : HeaderIds}
    (hsrc : h.src.toNat < 2 ^ c.idW) : (continuedCall o h b).Invariant c :=
  invariant_setSource (invariant_setActive hi hopen)
    (by simpa using (hi.owner_context o hopen).1) hsrc

/-! ### A call that opens (rule R222) -/

/-- The block of `openHalf` with the timer already started, as accepting the header leaves it: unlike
`openHalf` itself, a good block. -/
def startedCall (c : Cfg) (o : Origin) (h : HeaderIds) (b : Block) : Block :=
  { b.setHalf o { b.half o with st := .receiving, tmo := Timer.start (timeoutMs c o), rssi := {} } with
    ctx := openContext o h }

/-- Accepting the header starts the timer in any case. -/
theorem acceptQueued_openHalf (h : HeaderIds) (b : Block) :
    acceptQueued c o F p rssi (openHalf o h b) = acceptQueued c o F p rssi (startedCall c o h b) := by
  cases o <;> rfl

@[simp] theorem half_startedCall (c : Cfg) (o : Origin) (h : HeaderIds) (b : Block) :
    (startedCall c o h b).half o =
      { b.half o with st := .receiving, tmo := Timer.start (timeoutMs c o), rssi := {} } := by
  cases o <;> rfl

@[simp] theorem half_startedCall_other (c : Cfg) (o : Origin) (h : HeaderIds) (b : Block) :
    (startedCall c o h b).half (other o) = b.half (other o) := by cases o <;> rfl

/-- With both halves Idle, a call opens. -/
theorem invariant_startedCall (hi : b.Invariant c) (hother : (b.half (other o)).st = .idle)
    {h : HeaderIds} (hids : h.dst.toNat < 2 ^ c.idW ∧ h.src.toNat < 2 ^ c.idW) :
    (startedCall c o h b).Invariant c := by
  have hstarted : ∀ o', ((startedCall c o h b).half o').st ≠ .idle → o' = o := by
    intro o' hopen
    rcases eq_or_eq_other o o' with rfl | rfl
    · rfl
    · exact absurd (by simpa using hother) hopen
  have hopen : ¬ ((startedCall c o h b).rf.st = .idle ∧ (startedCall c o h b).net.st = .idle) := by
    rintro ⟨hrf, hnet⟩
    cases o
    · simp [startedCall] at hrf
    · simp [startedCall] at hnet
  exact
    { latch := by simpa [startedCall] using hi.latch
      halves := by
        intro o'
        rcases eq_or_eq_other o o' with rfl | rfl
        · rw [half_startedCall]
          exact { hi.halves o' with
            not_ending := by simp
            timer := rfl
            timer_within := Timer.within_start _
            rssi := RssiStats.bounded_empty }
        · rw [half_startedCall_other]
          exact hi.halves _
      one_owner := by
        cases o
        · exact .inr hother
        · exact .inl hother
      owner_context := by
        intro o' h'
        rw [hstarted o' h']
        exact ⟨rfl, rfl⟩
      hang := by
        rw [if_neg fun hall => hopen hall.2]
        rfl
      hang_within := Timer.within_stop _
      context_clear := nofun
      ids := hids
      net_rssi := by
        cases o
        · exact hi.net_rssi
        · rfl
      queue_bound := by simpa [startedCall] using hi.queue_bound
      queue_frames := by simpa [startedCall] using hi.queue_frames
      pend_frame := by simpa [startedCall] using hi.pend_frame
      pend_clear := by simpa [startedCall] using hi.pend_clear }

/-! ### Frames -/

/-- Every frame keeps the block good. -/
theorem FrameEffect.invariant (hc : c.WellFormed) (hn : o = .net → rssi = none)
    (h : FrameEffect c o F rssi b b') (hi : b.Invariant c) : b'.Invariant c := by
  cases h with
  | backpressure => exact invariant_setCntBp hi _
  | counted cnt => exact hi.setCounters o cnt
  | payload _ hv hopen =>
    exact invariant_acceptQueued hc (invariant_setActive hi hopen) (by simp) (length_of_valid hv) hn
  | terminated hv hopen =>
    exact invariant_endCall (invariant_setHalf_accept hc hi hopen (length_of_valid hv) hn false) _
      (by simpa [acceptUnqueued] using hopen)
  | repeated _ hv hopen =>
    have hF := length_of_valid hv
    exact invariant_acceptQueued hc (invariant_continuedCall hi hopen (hc.ids_fit F hF).2)
      (by simp) hF hn
  | refused k => exact invariant_countError (invariant_endIfOpen hi o _) o k
  | opened _ hv =>
    have hF := length_of_valid hv
    have hcleared : (clearedFor c o b).Invariant c :=
      invariant_endIfOpen (invariant_endIfOpen hi o _) _ _
    rw [acceptQueued_openHalf]
    exact invariant_acceptQueued hc
      (invariant_startedCall hcleared (by simp) (hc.ids_fit F hF)) (by simp) hF hn

/-! ### `CLOCK` -/

/-- A clock that no timer ends in keeps the block good (rules R30, R183). -/
theorem invariant_advanceTimers (hi : b.Invariant c) {ms : Word32}
    (htmo : ∀ o, outlasts ms (b.half o).tmo) (hhang : outlasts ms b.ctx.hang) :
    (advanceTimers ms b).Invariant c :=
  { hi with
    halves := by
      intro o
      rw [half_advanceTimers]
      exact { hi.halves o with
        timer := by rw [advance_ts_of_outlasts (htmo o)]; exact (hi.halves o).timer
        timer_within := Timer.within_advance ms (hi.halves o).timer_within }
    owner_context := fun o h => hi.owner_context o (by simpa using h)
    hang := by rw [advanceTimers_ctx, advance_ts_of_outlasts hhang]; exact hi.hang
    hang_within := Timer.within_advance ms hi.hang_within
    context_clear := by
      intro hv
      have hclear := hi.context_clear hv
      rw [advanceTimers_ctx, hclear]
      rfl }

/-- No timeout has expired, and neither has the hang timer (rule R30). -/
theorem Block.Invariant.timer_not_expired (hi : b.Invariant c) (o : Origin) :
    (b.half o).tmo.ts ≠ .expired := by
  rw [(hi.halves o).timer]
  split <;> simp

theorem Block.Invariant.hang_not_expired (hi : b.Invariant c) : b.ctx.hang.ts ≠ .expired := by
  rw [hi.hang]
  split <;> simp

/-- Only the timer of an open call can reach its timeout. -/
theorem Block.Invariant.open_of_expiresWithin (hi : b.Invariant c) {ms : Word32}
    (h : expiresWithin ms (b.half o).tmo) : (b.half o).st ≠ .idle := by
  intro hidle
  have hstop := hi.timer_stopped hidle
  rw [h.1] at hstop
  cases hstop

/-- The hang timer can expire only between calls. -/
theorem Block.Invariant.idle_of_hang_expiresWithin (hi : b.Invariant c) {ms : Word32}
    (h : expiresWithin ms b.ctx.hang) (o : Origin) : (b.half o).st = .idle := by
  by_contra hopen
  have hstop := hi.hang_stopped hopen
  rw [h.1] at hstop
  cases hstop

/-- A clock keeps the block good: a timeout is reached, the hang timer expires, or neither. -/
theorem invariant_tick (hi : b.Invariant c) (ms : Word32) : (tick c ms b).1.Invariant c := by
  have hretry := invariant_retryPending hi
  by_cases htimeout : ∃ o, expiresWithin ms (b.half o).tmo
  · obtain ⟨o, hexpires⟩ := htimeout
    have hopen := hi.open_of_expiresWithin hexpires
    rw [tick_of_timeout c hexpires (hi.timer_stopped (hi.other_idle hopen))]
    exact invariant_endCall hretry _ (by simpa using hopen)
  · have htmo : ∀ o, outlasts ms (b.half o).tmo := fun o =>
      (outlasts_or_expiresWithin ms (hi.timer_not_expired o)).resolve_right fun h => htimeout ⟨o, h⟩
    rcases outlasts_or_expiresWithin ms hi.hang_not_expired with hhang | hhang
    · rw [tick_of_outlasts c (htmo .rf) (htmo .net) hhang]
      exact invariant_advanceTimers hretry (fun o => by simpa using htmo o) (by simpa using hhang)
    · have hidle := hi.idle_of_hang_expiresWithin hhang
      rw [tick_of_hangExpiry c (hi.timer_stopped (hidle .rf)) (hi.timer_stopped (hidle .net)) hhang]
      exact invariant_clearContext hretry (by simpa using hidle .rf) (by simpa using hidle .net)

/-! ### Commands and steps -/

/-- Every command keeps the block good. -/
theorem CommandEffect.invariant {i : Instr} {r : Block × Response} (hc : c.WellFormed)
    (h : CommandEffect c b i r) (hi : b.Invariant c) : r.1.Invariant c := by
  cases h with
  | answered => exact hi
  | fatal => exact invariant_setLatch hi rfl
  | frame o rssi F =>
    exact (process_effect c o F (sampleOf o rssi) b).invariant hc (by rintro rfl; rfl) hi
  | delivered hq => exact invariant_pop hi hq
  | clock ms =>
    dsimp only
    exact invariant_tick hi ms
  | reset => exact invariant_setLatch (invariant_reset c) hi.latch

/-- Settles O57: a step waits, resets the block, performs a command, or refuses a packet. -/
theorem stepsKeepInvariant : Obligations.StepsKeepInvariant := by
  intro s t hi hstep
  rcases step_cases hstep with ⟨_, rfl⟩ | ⟨_, _, rfl⟩ | ⟨_, _, i, _, _, rfl⟩ |
    ⟨_, _, _, _, _, _, rfl⟩
  · exact hi
  · exact invariant_reset cfg
  · exact (perform_effect cfg i s.blk).invariant hardwareConfigurationWellFormed.1 hi
  · rw [State.Invariant, State.answer_blk, refuseCommand_blk]
    exact hi

end Sys2Proof.Machine
end

section
/-! PROOFS. A stream of commands (`20_memory.md` rule R70): presented as packets, it is performed one
command per step, in order. -/

namespace Sys2Proof

open Sys2Proof.Machine

/-- A command of the stream is read back from its packet (rules R81, R82). -/
theorem decode_encode {i : Instr} (h : i.wellFormed = true) : decode (encode i) = .ok i :=
  (decode_packet i.opcode i.arg8 i.arg32 (of_decide_eq_true h)).trans (decodeFields_of_instr i)

end Sys2Proof

namespace Sys2Proof.Machine

/-- A run goes on from the state its first step leaves. -/
theorem run_succ_of_step {M : Host.Core} {s s' : M.State} (h : M.step s = .next s') (k : Nat) :
    M.run (k + 1) s = M.run k s' := by
  rw [Host.Core.run, h]

/-- The packet of a well-formed command makes the step perform it on the block (rule R6). -/
theorem step_encode {s : State} {i : Instr} {rest : List HostInput} (hwf : i.wellFormed = true)
    (hinputs : s.inputs = .command (encode i) :: rest) :
    step s = .next ({ s with inputs := rest }.answer (perform cfg i s.blk)) :=
  step_command hinputs (decode_encode hwf)

/-- Settles O11, by induction on the stream from every state: the step on the first packet leaves the
block the fold goes on from, and the other inputs. -/
theorem commandStreamIsLeftFold : Obligations.CommandStreamIsLeftFold := by
  intro is
  induction is with
  | nil => exact fun s rest _ hinputs => ⟨s, rfl, hinputs, rfl⟩
  | cons i is ih =>
    intro s rest hwf hinputs
    obtain ⟨hi, his⟩ := List.forall_mem_cons.mp hwf
    rw [List.length_cons, run_succ_of_step (M := core) (step_encode hi hinputs), List.foldl_cons]
    exact ih _ rest his rfl

end Sys2Proof.Machine
end

section
/-! PROOFS. Command packets (`30_encoding.md` rules R80 to R93): encoding and decoding are inverse, the
operand table decides which packets decode, and what a step does with a packet by how it decodes. -/

namespace Sys2Proof

open Sys2Proof.Machine Sys2Proof.Spec

/-! ### Round trips (rules R80 to R82) -/

/-- Settles O1: a well-formed command's packet decodes by its fields, and these name the command. -/
theorem decodeEncodeRoundTrip : Obligations.DecodeEncodeRoundTrip := fun _ => decode_encode

/-- A packet decodes by its fields (rule R81). -/
theorem decode_packetOf (op arg8 : Byte) (arg32 : Word32) {payload : Buffer}
    (h : payload.length ≤ 65535) :
    decode (packetOf op arg8 arg32 payload) = decodeFields op arg8 arg32 payload :=
  decode_packet op arg8 arg32 h

/-- Every command's packet is made of its four fields. -/
theorem encode_eq_packetOf (i : Instr) :
    encode i = packetOf i.opcode i.arg8 i.arg32 i.payload := rfl

/-- Settles O2: bytes that decode are a packet, and the command read from its fields has them all. -/
theorem encodeDecodeRoundTrip : Obligations.EncodeDecodeRoundTrip := by
  intro p i hdecode
  rcases decode_cases p with ⟨op, arg8, arg32, payload, hlen, rfl, hfields⟩ | hmis
  · rw [hfields] at hdecode
    obtain ⟨rfl, rfl, rfl, rfl⟩ := fields_of_decodeFields hdecode
    exact ⟨decide_eq_true hlen, encode_eq_packetOf i⟩
  · rw [hmis] at hdecode
    cases hdecode

/-! ### The operand table (rules R82, R86, R91) -/

/-- `ARG32` of a `PROCFRAME` with a sample is the sample, zero-extended. -/
theorem toNat_zero_append (raw : BitVec 16) : (0#16 ++ raw).toNat = raw.toNat := by
  rw [BitVec.toNat_append, BitVec.toNat_ofNat, Nat.zero_mod, Nat.zero_shiftLeft, Nat.zero_or]

theorem setWidth_zero_append (raw : BitVec 16) : (0#16 ++ raw).setWidth 16 = raw :=
  BitVec.eq_of_toNat_eq (by
    rw [BitVec.toNat_setWidth, toNat_zero_append, Nat.mod_eq_of_lt raw.isLt])

/-- A word below 2^16 has zero bits 31:16. -/
theorem extract_high_of_lt {v : Word32} (h : v.toNat < 2 ^ 16) : v.extractLsb' 16 16 = 0#16 :=
  BitVec.eq_of_toNat_eq (by
    rw [BitVec.extractLsb'_toNat, Nat.shiftRight_eq_div_pow, Nat.div_eq_of_lt h]
    rfl)

/-- The fields of a command obey the operand table. -/
theorem operandsAllowed_of_instr (i : Instr) :
    operandsAllowed i.opcode i.arg8 i.arg32 i.payload = true := by
  cases i with
  | procframe r p =>
    cases r with
    | none => rfl
    | some raw =>
      have hraw : (0#16 ++ raw).toNat < 2 ^ 16 := by
        rw [toNat_zero_append]
        exact raw.isLt
      exact decide_eq_true ⟨Nat.one_lt_two, hraw, nofun⟩
  | procnet p => cases p <;> rfl
  | rdlc o => cases o <;> rfl
  | _ => rfl

/-- The literal opcode map names a command by its fields. -/
theorem commandOf_of_instr (i : Instr) :
    commandOf i.opcode i.arg8 i.arg32 i.payload = some i := by
  cases i with
  | procframe r p =>
    cases r with
    | none => rfl
    | some raw =>
      show some (Instr.procframe (some ((0#16 ++ raw).setWidth 16)) p) = _
      rw [setWidth_zero_append]
  | procnet p => cases p <;> rfl
  | rdlc o => cases o <;> rfl
  | _ => rfl

/-- A byte below 2 is 0 or 1: a flag in bit 0 with bits 7:1 zero. -/
theorem eq_zero_or_one_of_toNat_lt {v : Byte} (h : v.toNat < 2) : v = 0#8 ∨ v = 1#8 := by
  bv_omega

/-- Fields that obey the table are those of a command. -/
theorem exists_instr_of_operandsAllowed {op arg8 : Byte} {arg32 : Word32} {payload : Buffer}
    (h : operandsAllowed op arg8 arg32 payload = true) :
    ∃ i : Instr, i.opcode = op ∧ i.arg8 = arg8 ∧ i.arg32 = arg32 ∧ i.payload = payload := by
  unfold operandsAllowed at h
  split at h
  case isTrue hop =>
    exact ⟨.chk5 arg8 payload, hop.symm, rfl, (of_decide_eq_true h).symm, rfl⟩
  split at h
  case isTrue hop =>
    obtain ⟨rfl, rfl⟩ := of_decide_eq_true h
    simp only [List.mem_cons, List.not_mem_nil, or_false] at hop
    rcases hop with rfl | rfl | rfl | rfl | rfl | rfl | rfl | rfl | rfl | rfl | rfl
    · exact ⟨.enc5 payload, rfl, rfl, rfl, rfl⟩
    · exact ⟨.chk16a payload, rfl, rfl, rfl, rfl⟩
    · exact ⟨.add16a payload, rfl, rfl, rfl, rfl⟩
    · exact ⟨.chk16b payload, rfl, rfl, rfl, rfl⟩
    · exact ⟨.add16b payload, rfl, rfl, rfl, rfl⟩
    · exact ⟨.chk32 payload, rfl, rfl, rfl, rfl⟩
    · exact ⟨.add32 payload, rfl, rfl, rfl, rfl⟩
    · exact ⟨.crc8 payload, rfl, rfl, rfl, rfl⟩
    · exact ⟨.crc9 payload, rfl, rfl, rfl, rfl⟩
    · exact ⟨.sync payload, rfl, rfl, rfl, rfl⟩
    · exact ⟨.validate payload, rfl, rfl, rfl, rfl⟩
  split at h
  case isTrue hop =>
    obtain ⟨hflag, hraw, hnone⟩ := of_decide_eq_true h
    rcases eq_zero_or_one_of_toNat_lt hflag with rfl | rfl
    · exact ⟨.procframe none payload, hop.symm, rfl, (hnone rfl).symm, rfl⟩
    · exact ⟨.procframe (some (arg32.extractLsb' 0 16)) payload, hop.symm, rfl,
        append_extract arg32 (extract_high_of_lt hraw), rfl⟩
  split at h
  case isTrue hop =>
    obtain ⟨hflag, rfl, hnone⟩ := of_decide_eq_true h
    rcases eq_zero_or_one_of_toNat_lt hflag with rfl | rfl
    · exact ⟨.procnet none, hop.symm, rfl, rfl, (hnone rfl).symm⟩
    · exact ⟨.procnet (some payload), hop.symm, rfl, rfl, rfl⟩
  split at h
  case isTrue hop =>
    obtain ⟨rfl, rfl, rfl⟩ := of_decide_eq_true h
    simp only [List.mem_cons, List.not_mem_nil, or_false] at hop
    rcases hop with rfl | rfl | rfl
    · exact ⟨.getframe, rfl, rfl, rfl, rfl⟩
    · exact ⟨.isbusy, rfl, rfl, rfl, rfl⟩
    · exact ⟨.reset, rfl, rfl, rfl, rfl⟩
  split at h
  case isTrue hop =>
    obtain ⟨rfl, rfl⟩ := of_decide_eq_true h
    exact ⟨.clock arg32, hop.symm, rfl, rfl, rfl⟩
  split at h
  case isTrue hop =>
    obtain ⟨rfl, rfl⟩ := of_decide_eq_true h
    exact ⟨.rdstat arg8, hop.symm, rfl, rfl, rfl⟩
  split at h
  case isTrue hop =>
    obtain ⟨hflag, rfl, rfl⟩ := of_decide_eq_true h
    rcases eq_zero_or_one_of_toNat_lt hflag with rfl | rfl
    · exact ⟨.rdlc .rf, hop.symm, rfl, rfl, rfl⟩
    · exact ⟨.rdlc .net, hop.symm, rfl, rfl, rfl⟩
  cases h

/-- Fields that break the table, or whose opcode is reserved, decode to no command, by a name other than
the transport error. -/
theorem decodeFields_eq_error {op arg8 : Byte} {arg32 : Word32} {payload : Buffer}
    (h : operandsAllowed op arg8 arg32 payload = false) :
    ∃ e, e ≠ .misdelimited ∧ decodeFields op arg8 arg32 payload = .error e := by
  rcases hdecode : decodeFields op arg8 arg32 payload with e | i
  · refine ⟨e, ?_, rfl⟩
    rintro rfl
    exact decodeFields_ne_misdelimited op arg8 arg32 payload hdecode
  · obtain ⟨rfl, rfl, rfl, rfl⟩ := fields_of_decodeFields hdecode
    rw [operandsAllowed_of_instr] at h
    cases h

/-- Settles O3: fields that obey the table are a command's, so they decode to it; fields that decode are
a command's, so they obey the table. -/
theorem operandTableDecidesDecoding : Obligations.OperandTableDecidesDecoding := by
  intro op arg8 arg32 payload hlen
  rw [decode_packetOf op arg8 arg32 hlen]
  split
  · next hallowed =>
    obtain ⟨i, rfl, rfl, rfl, rfl⟩ := exists_instr_of_operandsAllowed hallowed
    exact ⟨i, commandOf_of_instr i, decodeFields_of_instr i, rfl, rfl, rfl, rfl⟩
  · next hbroken => exact decodeFields_eq_error (by simpa using hbroken)

theorem decode_of_encode_eq {p : Buffer} {i : Instr} (hwf : i.wellFormed = true)
    (h : encode i = p) : decode p = .ok i := h ▸ decode_encode hwf

/-- Settles O4: each of the packets is, byte by byte, the encoding of its command. -/
theorem vectorPacketsDecode : Obligations.VectorPacketsDecode := by
  unfold Obligations.VectorPacketsDecode
  and_intros <;> exact decode_of_encode_eq rfl rfl

end Sys2Proof

namespace Sys2Proof.Machine

open Sys2Proof.Spec

/-! ### The step on a packet (rules R92, R93) -/

/-- The step on bytes that are no packet stops. -/
theorem step_misdelimited {s : State} {packet : Buffer} {rest : List HostInput}
    (hinputs : s.inputs = .command packet :: rest) (hdecode : decode packet = .error .misdelimited) :
    step s = .refused .misdelimitedPacket := by
  unfold step
  simp only [hinputs, hdecode]

/-- The step on a packet of any fields goes on, and takes the packet. -/
theorem step_packetOf {s : State} {rest : List HostInput} {op arg8 : Byte} {arg32 : Word32}
    {payload : Buffer} (hlen : payload.length ≤ 65535)
    (hinputs : s.inputs = .command (packetOf op arg8 arg32 payload) :: rest) :
    ∃ t, step s = .next t ∧ t.inputs = rest := by
  have hfields := decode_packetOf op arg8 arg32 hlen
  rcases hdecode : decodeFields op arg8 arg32 payload with e | i <;> rw [hdecode] at hfields
  · have hne : e ≠ .misdelimited := by
      rintro rfl
      exact decodeFields_ne_misdelimited op arg8 arg32 payload hdecode
    exact ⟨_, step_refused hinputs hfields hne, rfl⟩
  · exact ⟨_, step_command hinputs hfields, rfl⟩

/-- Settles O10: by what stands at the head of the inputs, and for a packet by `decode_cases`. -/
theorem stepsStopOnlyOnMisdelimitedPackets : Obligations.StepsStopOnlyOnMisdelimitedPackets := by
  intro s
  refine ⟨?waits, ?resets, fun packet rest hinputs => ⟨?stops, ?serves⟩⟩
  case waits =>
    intro hinputs
    simp only [step, hinputs]
  case resets =>
    intro rest hinputs
    exact ⟨{ blk := Block.reset cfg, inputs := rest, resp := none },
      by simp only [step, hinputs, hardwareReset_eq], rfl⟩
  case stops =>
    intro hnone
    rcases decode_cases packet with ⟨op, arg8, arg32, payload, hlen, heq, _⟩ | hmis
    · exact absurd heq (hnone op arg8 arg32 payload hlen)
    · exact step_misdelimited hinputs hmis
  case serves =>
    rintro ⟨op, arg8, arg32, payload, hlen, rfl⟩
    exact step_packetOf hlen hinputs

/-! ### Refused commands (rules R91, R92) -/

/-- A refused command and an `RDSTAT` of an undefined selector have the same answer, and leave the block
as it is. -/
theorem perform_rdstat_undefined (c : Cfg) (b : Block) {sel : Byte}
    (h : selectorDefined sel = false) : perform c (.rdstat sel) b = refuseCommand b := by
  rw [perform, doRdstat, refuseCommand, statusWord_eq_none h]

/-- A packet with broken operands or a reserved opcode, and an `RDSTAT` packet with an undefined
selector, are answered alike. -/
theorem step_eq_refuseCommand {s : State} {rest : List HostInput} {op arg8 : Byte} {arg32 : Word32}
    {payload : Buffer} (hlen : payload.length ≤ 65535)
    (hinputs : s.inputs = .command (packetOf op arg8 arg32 payload) :: rest)
    (h : operandsAllowed op arg8 arg32 payload = false ∨
      op = 0x26#8 ∧ selectorDefined arg8 = false) :
    step s = .next ({ s with inputs := rest }.answer (refuseCommand s.blk)) := by
  have hfields := decode_packetOf op arg8 arg32 hlen
  by_cases hallowed : operandsAllowed op arg8 arg32 payload = true
  · obtain ⟨rfl, hundefined⟩ := h.resolve_left (by simp [hallowed])
    obtain ⟨i, hop, rfl, rfl, rfl⟩ := exists_instr_of_operandsAllowed hallowed
    obtain ⟨sel, rfl⟩ : ∃ sel, i = .rdstat sel := by
      cases i with
      | rdstat sel => exact ⟨sel, rfl⟩
      | _ => simp [Instr.opcode] at hop
    rw [step_command hinputs (hfields.trans (decodeFields_of_instr (.rdstat sel))),
      perform_rdstat_undefined (sel := sel) cfg s.blk hundefined]
  · obtain ⟨e, hne, herror⟩ := decodeFields_eq_error (by simpa using hallowed)
    exact step_refused hinputs (hfields.trans herror) hne

/-- Settles O14: the latch decides between BADCMD and FAULTED, and the block stays as it is. -/
theorem refusedCommandsChangeNothing : Obligations.RefusedCommandsChangeNothing := by
  intro s rest op arg8 arg32 payload hlen hinputs hrefused
  rw [step_eq_refuseCommand hlen hinputs hrefused]
  rcases hfault : s.blk.fault
  · rw [refuseCommand_ready hfault]
    rfl
  · rw [refuseCommand_faulted hfault]
    rfl

end Sys2Proof.Machine
end

section
/-! PROOFS. The bytes of responses and event records (`30_encoding.md` rules R83 to R90). -/

namespace Sys2Proof.Machine

open Sys2Proof.Spec

/-! ### Codes (rules R85, R88 to R90) -/

theorem statusCode_eq_statusByte (status : Status) : statusCode status = statusByte status := by
  cases status <;> rfl

theorem eventCode_eq_eventByte (code : EventCode) : eventCode code = eventByte code := by
  cases code <;> rfl

theorem originCode_eq_originByte (o : Origin) : originCode o = originByte o := by
  cases o <;> rfl

theorem reasonCode_eq_reasonByte (reason : Option EndReason) :
    reasonCode reason = reasonByte reason := by
  rcases reason with _ | reason
  · rfl
  · cases reason <;> rfl

theorem getLsbD_flagsByte (result bp : Bool) : ∀ k < 8,
    (flagsByte result bp).getLsbD k = if k = 0 then result else if k = 1 then bp else false := by
  cases result <;> cases bp <;> decide

/-! ### Event records (rule R87) -/

@[simp] theorem length_record (e : Event) : e.record.length = 16 := rfl

/-- Settles O5: a record is a list of sixteen named bytes, and each word is made of its own four. -/
theorem eventRecordLayout : Obligations.EventRecordLayout := fun e =>
  ⟨length_record e, eventCode_eq_eventByte e.code, originCode_eq_originByte e.origin,
    reasonCode_eq_reasonByte e.reason, rfl, ofBe32_be32 e.a, ofBe32_be32 e.b, ofBe32_be32 e.c⟩

/-- Slicing past a first part of known length slices the rest. -/
theorem slice_append {A B : Buffer} {n : Nat} (hA : A.length = n) (off m : Nat) :
    slice (A ++ B) (n + off) m = slice B off m := by
  rw [slice, ← hA, List.drop_length_add_append, slice]

/-- So does reading a byte past it. -/
theorem getD_append {A B : Buffer} {n : Nat} (hA : A.length = n) (off : Nat) :
    (A ++ B).getD (n + off) 0 = B.getD off 0 := by
  rw [List.getD_append_right _ _ _ _ (by omega), ← hA, Nat.add_sub_cancel_left]

/-- A first part of known length is the slice of that length. -/
theorem slice_left {A B : Buffer} {n : Nat} (hA : A.length = n) : slice (A ++ B) 0 n = A :=
  List.take_left' hA

/-- A run of records holds the `k`-th one in the sixteen bytes from `16 * k`. -/
theorem slice_flatMap_record {events : List Event} {k : Nat} {e : Event} (h : events[k]? = some e) :
    slice (events.flatMap Event.record) (16 * k) 16 = e.record := by
  induction events generalizing k with
  | nil => cases h
  | cons first events ih =>
    rw [List.flatMap_cons]
    cases k with
    | zero =>
      cases h
      exact slice_left (length_record e)
    | succ k =>
      rw [Nat.mul_succ, Nat.add_comm, slice_append (length_record first)]
      exact ih h

theorem length_flatMap_record (events : List Event) :
    (events.flatMap Event.record).length = 16 * events.length := by
  simp [List.length_flatMap, Nat.mul_comm]

/-! ### Response packets (rule R83) -/

/-- The eight bytes of a response before its payload. -/
def responseHeader (r : Response) : Buffer :=
  [statusCode r.status, flagsByte r.result r.bp] ++ be16 (BitVec.ofNat 16 r.payload.length)
    ++ be32 r.res32

theorem length_responseHeader (r : Response) : (responseHeader r).length = 8 := rfl

/-- A response packet is its header, its payload, the number of its events, and their records. -/
theorem packet_eq (r : Response) : r.packet = responseHeader r ++ (r.payload
    ++ ([BitVec.ofNat 8 r.events.length] ++ r.events.flatMap Event.record)) := by
  simp [Response.packet, responseHeader]

/-- Settles O6: each field is read from the part of `packet_eq` it stands in, and the two lengths fit
their fields. -/
theorem responsePacketLayout : Obligations.ResponsePacketLayout := by
  intro r hshape n
  rw [packet_eq]
  refine ⟨?length, statusCode_eq_statusByte r.status, getLsbD_flagsByte r.result r.bp, ?len,
    ofBe32_be32 r.res32, ?payload, ?count, ?records⟩
  case length =>
    simp only [List.length_append, length_responseHeader, length_flatMap_record,
      List.length_singleton]
    omega
  case len =>
    have hword : (BitVec.ofNat 16 n).toNat = n := by
      have hfits := hshape.payload_fits
      rw [BitVec.toNat_ofNat]
      omega
    exact (congrArg BitVec.toNat (ofBe16_be16 (BitVec.ofNat 16 n))).trans hword
  case payload =>
    exact (slice_append (length_responseHeader r) 0 n).trans (slice_left rfl)
  case count =>
    have hfits := hshape.events_fit
    have hbyte : (BitVec.ofNat 8 r.events.length).toNat = r.events.length := by
      rw [BitVec.toNat_ofNat]
      omega
    rw [getD_append (length_responseHeader r), ← Nat.add_zero n, getD_append rfl]
    exact hbyte
  case records =>
    intro k e he
    have hoffset : 9 + n + 16 * k = 8 + (n + (1 + 16 * k)) := by omega
    rw [hoffset, slice_append (length_responseHeader r), slice_append rfl,
      slice_append List.length_singleton]
    exact slice_flatMap_record he

end Sys2Proof.Machine
end

section
/-! PROOFS. `VALIDATE` (`43_validator.md` rules R194 to R201): the verdict of each stage, and the word it is
answered with in the literal codes of `30_encoding.md` rule R90. -/

namespace Sys2Proof.Machine

open Sys2Proof.Spec

variable {c : Cfg} {F : Buffer} {kind : SyncKind}

/-- A command that keeps the block only answers, under any configuration. -/
theorem runs_of_perform_same {i : Instr} {s : State} {r : Response}
    (h : perform c i s.blk = (s.blk, r)) : Runs c i s { s with resp := some r } := by
  refine ⟨by rw [h, State.answer_same], ?_⟩
  rintro rfl
  exact exec_of_perform_same h

/-! ### The word (rules R90, R198) -/

theorem kindCode_eq_kindWord (kind : SyncKind) : (kindCode kind).setWidth 32 = kindWord kind := by
  obtain ⟨content, source⟩ := kind
  cases content <;> cases source <;> rfl

theorem roleCode_eq_roleWord (role : Role) : (roleCode role).setWidth 32 = roleWord role := by
  cases role <;> rfl

theorem validateWord_some (kind : SyncKind) (type : Byte) (role : Role) :
    validateWord (some kind) (some type) (some role)
      = roleWord role <<< 16 ||| type.setWidth 32 <<< 8 ||| kindWord kind := by
  rw [← kindCode_eq_kindWord, ← roleCode_eq_roleWord]
  rfl

theorem validateWord_none (kind : SyncKind) (type : Byte) :
    validateWord (some kind) (some type) none = type.setWidth 32 <<< 8 ||| kindWord kind := by
  rw [← kindCode_eq_kindWord, ← BitVec.zero_or (x := type.setWidth 32 <<< 8)]
  rfl

/-! ### The stages (rule R194) -/

theorem validate_of_length_ne (h : F.length ≠ c.frameLen) :
    validate c F = .drop .dropLength none none := if_pos h

theorem validate_of_classify_none (hlen : F.length = c.frameLen) (h : classify c F = none) :
    validate c F = .drop .dropSync none none := by
  rw [validate, if_neg (not_not.2 hlen), h]

theorem validate_of_classify_some (hlen : F.length = c.frameLen) (h : classify c F = some kind) :
    validate c F = validateKind c F kind := by
  rw [validate, if_neg (not_not.2 hlen), h]

theorem validateKind_voice (h : kind.content = .voice) :
    validateKind c F kind = validateCheck c F kind 0#8 c.voiceProfile := by
  rw [validateKind, h]

theorem validateKind_unknown (h : kind.content = .data) (hp : c.profile (c.typeOf F) = none) :
    validateKind c F kind = .drop .dropType (some kind) (some (c.typeOf F)) := by
  simp only [validateKind, h, hp]

theorem validateKind_data {p : Profile} (h : kind.content = .data)
    (hp : c.profile (c.typeOf F) = some p) :
    validateKind c F kind = validateCheck c F kind (c.typeOf F) p := by
  simp only [validateKind, h, hp]

/-- The answer to the last stage, by its check. -/
theorem validateResponse_validateCheck (kind : SyncKind) (type : Byte) (p : Profile) :
    validateResponse (validateCheck c F kind type p) = if checkOk c F p.check
      then { status := .ok, result := true
             res32 := roleWord p.role <<< 16 ||| type.setWidth 32 <<< 8 ||| kindWord kind }
      else { status := .dropCheck, res32 := type.setWidth 32 <<< 8 ||| kindWord kind } := by
  rw [← validateWord_some, ← validateWord_none, validateCheck]
  split <;> rfl

/-- On a ready block `VALIDATE` answers the verdict and changes nothing (rule R198). -/
theorem runs_validate {s : State} (hready : s.blk.fault = false) {v : Verdict} {r : Response}
    (hv : validate c F = v) (hr : validateResponse v = r) :
    Runs c (.validate F) s { s with resp := some r } := by
  apply runs_of_perform_same
  rw [perform, doValidate, gate_ready hready, hv, hr]

/-- Settles O31: each case is a stage's verdict and its answer. -/
theorem validateReportsFirstFailingStage : Obligations.ValidateReportsFirstFailingStage := by
  intro c F s hwf hready
  refine ⟨?length, ?sync, ?voice, ?unknown, ?data⟩
  case length =>
    intro hlen
    exact runs_validate hready (validate_of_length_ne hlen) rfl
  case sync =>
    intro hlen hnone
    exact runs_validate hready (validate_of_classify_none hlen hnone) rfl
  case voice =>
    intro kind hlen hkind hvoice
    refine runs_validate hready (validate_of_classify_some hlen hkind) ?_
    rw [validateKind_voice hvoice, validateResponse_validateCheck, hwf.voice_role]
    have hzero : (0#8).setWidth 32 <<< 8 = 0#32 := rfl
    rw [hzero, BitVec.or_zero, BitVec.zero_or]
    rfl
  case unknown =>
    intro kind hlen hkind hdata hnone
    refine runs_validate hready (validate_of_classify_some hlen hkind) ?_
    rw [validateKind_unknown hdata hnone, validateResponse, validateWord_none]
  case data =>
    intro kind p hlen hkind hdata hp
    refine runs_validate hready (validate_of_classify_some hlen hkind) ?_
    rw [validateKind_data hdata hp, validateResponse_validateCheck]

end Sys2Proof.Machine
end

section
/-! PROOFS. The shape of responses (`30_encoding.md` rules R83 to R85): each command's response, from a good
block, fits the response packet. -/

namespace Sys2Proof.Machine

open Sys2Proof.Spec

variable {c : Cfg} {b : Block} {o : Origin}

/-! ### The kinds of response -/

/-- A response without flags and payload. -/
theorem wellShaped_status (status : Status) (res32 : Word32) {events : List Event}
    (h : events.length ≤ 3) :
    Response.WellShaped { status := status, res32 := res32, events := events } where
  payload_fits := Nat.zero_le _
  events_fit := h
  result_ok := nofun
  bp_accepted := nofun

/-- A response with status OK and no backpressure. -/
theorem wellShaped_ok (result : Bool) (res32 : Word32) {payload : Buffer} {events : List Event}
    (hp : payload.length ≤ 65535) (he : events.length ≤ 3) : Response.WellShaped
      { status := .ok, result := result, res32 := res32, payload := payload, events := events } where
  payload_fits := hp
  events_fit := he
  result_ok := fun _ => rfl
  bp_accepted := nofun

/-- A response to an accepted frame. -/
theorem wellShaped_accepted (bp : Bool) {events : List Event} (h : events.length ≤ 3) :
    (accepted bp events).WellShaped where
  payload_fits := Nat.zero_le _
  events_fit := h
  result_ok := fun _ => rfl
  bp_accepted := fun _ => ⟨rfl, rfl⟩

/-- A response with neither payload nor events. -/
theorem wellShaped_short (status : Status) (res32 : Word32) :
    Response.WellShaped { status := status, res32 := res32 } :=
  wellShaped_status status res32 (Nat.zero_le _)

theorem wellShaped_gate {body : Block × Response} (h : body.2.WellShaped) :
    (gate b body).2.WellShaped := by
  unfold gate
  split
  · exact wellShaped_short _ _
  · exact h

/-! ### Codec commands (rule R120) -/

theorem wellShaped_codec {m : Nat} {p : Buffer} {r : Response} (h : m ≤ p.length → r.WellShaped) :
    (codec m p b r).2.WellShaped := by
  apply wellShaped_gate
  split
  · exact wellShaped_short _ _
  · next hlen => exact h (Nat.le_of_not_lt hlen)

theorem wellShaped_check (ok : Bool) (v : Word32) : (checkResponse ok v).WellShaped :=
  wellShaped_ok ok v (Nat.zero_le _) (Nat.zero_le _)

theorem wellShaped_value (v : Word32) {out : Buffer} (h : out.length ≤ 65535) :
    (valueResponse v out).WellShaped := wellShaped_ok true v h (Nat.zero_le _)

/-- A payload that fits still fits with its trailer in place. -/
theorem wellShaped_withTrailer (v : Word32) {B t : Buffer} (hfits : B.length ≤ 65535)
    (ht : t.length ≤ B.length) : (valueResponse v (withTrailer B t)).WellShaped :=
  wellShaped_value v ((length_withTrailer ht).trans_le hfits)

/-! ### Frames (rules R210 to R222) -/

theorem length_endEvents_le (o : Origin) (reason : EndReason) (b : Block) :
    (endEvents o reason b).length ≤ 2 := by
  unfold endEvents
  split <;> simp

theorem length_snoc_le {events : List Event} (h : events.length ≤ 2) (e : Event) :
    (events ++ [e]).length ≤ 3 := by
  rw [List.length_append]
  exact Nat.succ_le_succ h

section

variable {F : Buffer} {p : Profile} {rssi : Option (BitVec 16)}

/-- Admission emits at most one event beside those of the calls it ends: a forced end comes before it only
while the other half is Idle, so that nothing is left to pre-empt. -/
theorem wellShaped_admitHeader {h : HeaderIds} {events : List Event} (hevents : events.length ≤ 2)
    (hpreempt : (b.half (other o)).st ≠ .idle → events = []) :
    (admitHeader c o F p rssi h events b).2.WellShaped := by
  rcases admitHeader_cases c o F p rssi h events b with
    ⟨_, status, code, _, e⟩ | ⟨_, hother, _, e⟩ | ⟨_, _, e⟩ <;> rw [e]
  · exact wellShaped_status _ _ (length_snoc_le hevents _)
  · rw [hpreempt hother, List.nil_append]
    exact wellShaped_accepted _ (length_snoc_le (length_endEvents_le (other o) .preempted b) _)
  · exact wellShaped_accepted _ (length_snoc_le hevents _)

theorem wellShaped_processHeader (hi : b.Invariant c) :
    (processHeader c o F p rssi b).2.WellShaped := by
  unfold processHeader
  simp only
  split
  · exact wellShaped_admitHeader (Nat.zero_le _) (fun _ => rfl)
  · next hopen =>
    split
    · exact wellShaped_accepted _ (Nat.zero_le _)
    · refine wellShaped_admitHeader (length_endEvents_le o .forced b) (fun hother => ?_)
      rw [half_endCall_other] at hother
      exact absurd (hi.other_idle hopen) hother

theorem wellShaped_processPayload : (processPayload c o F p rssi b).2.WellShaped := by
  unfold processPayload
  split
  · exact wellShaped_short _ _
  · exact wellShaped_accepted _ (Nat.zero_le _)

theorem wellShaped_processTerminator : (processTerminator c o F p rssi b).2.WellShaped := by
  unfold processTerminator
  split
  · exact wellShaped_short _ _
  · split
    · exact wellShaped_short _ _
    · exact wellShaped_accepted _ ((length_endEvents_le o .graceful _).trans (by decide))

theorem wellShaped_process (hi : b.Invariant c) (o : Origin) (F : Buffer)
    (rssi : Option (BitVec 16)) : (process c o F rssi b).2.WellShaped := by
  rcases process_cases c o F rssi b with ⟨_, e⟩ | ⟨_, _, _, _, _, e⟩ |
    ⟨_, _, _, p, _, ⟨_, e⟩ | ⟨_, e⟩ | ⟨_, e⟩⟩ <;> rw [e]
  · exact wellShaped_short _ _
  · exact wellShaped_short _ _
  · exact wellShaped_processPayload
  · exact wellShaped_processTerminator
  · exact wellShaped_processHeader hi

end

/-! ### `CLOCK` (rule R246) -/

/-- From a good block a clock reaches a timeout, or none of its timers expires, or the hang timer does. -/
theorem Block.Invariant.tick_cases (hi : b.Invariant c) (ms : Word32) :
    (∃ o, tick c ms b = (endCall c o .timeout (retryPending c b), endEvents o .timeout b)) ∨
    tick c ms b = (advanceTimers ms (retryPending c b), []) ∨
    tick c ms b = ({ retryPending c b with ctx := {} },
      [contextEvent .hangExpired b.ctx.owner none b.ctx]) := by
  by_cases htimeout : ∃ o, expiresWithin ms (b.half o).tmo
  · obtain ⟨o, hexpires⟩ := htimeout
    have hother := hi.timer_stopped (hi.other_idle (hi.open_of_expiresWithin hexpires))
    exact .inl ⟨o, tick_of_timeout c hexpires hother⟩
  · have htmo : ∀ o, outlasts ms (b.half o).tmo := fun o =>
      (outlasts_or_expiresWithin ms (hi.timer_not_expired o)).resolve_right fun h => htimeout ⟨o, h⟩
    rcases outlasts_or_expiresWithin ms hi.hang_not_expired with hhang | hhang
    · exact .inr (.inl (tick_of_outlasts c (htmo .rf) (htmo .net) hhang))
    · have hidle := hi.idle_of_hang_expiresWithin hhang
      exact .inr (.inr
        (tick_of_hangExpiry c (hi.timer_stopped (hidle .rf)) (hi.timer_stopped (hidle .net)) hhang))

theorem length_tick_events_le (hi : b.Invariant c) (ms : Word32) : (tick c ms b).2.length ≤ 2 := by
  rcases hi.tick_cases ms with ⟨o, e⟩ | e | e <;> rw [e]
  · exact length_endEvents_le o .timeout b
  · exact Nat.zero_le _
  · exact one_le_two

/-! ### Reading and validating -/

theorem wellShaped_getframe (hc : c.WellFormed) (hi : b.Invariant c) :
    (doGetframe b).2.WellShaped := by
  apply wellShaped_gate
  split
  · exact wellShaped_ok true 0#32 (Nat.zero_le _) (Nat.zero_le _)
  · next e rest hq =>
    have hmem : e ∈ b.q := by
      rw [qPop_eq_some.1 hq]
      exact List.mem_cons_self
    exact wellShaped_ok _ _ ((hi.queue_frames e hmem).trans_le hc.frame_len.2) (Nat.zero_le _)

theorem wellShaped_rdlc (hc : c.WellFormed) (hi : b.Invariant c) (o : Origin) :
    (doRdlc o b).2.WellShaped := by
  have hlc : (b.half o).lc.length ≤ 65535 :=
    (hi.halves o).lc_length.trans_le (hc.lc_len.trans (by decide))
  exact wellShaped_gate (wellShaped_ok _ _ hlc (Nat.zero_le _))

theorem wellShaped_rdstat (sel : Byte) : (doRdstat sel b).2.WellShaped := by
  apply wellShaped_gate
  split
  · exact wellShaped_ok _ _ (Nat.zero_le _) (Nat.zero_le _)
  · exact wellShaped_short _ _

theorem wellShaped_validateResponse (v : Verdict) : (validateResponse v).WellShaped := by
  cases v with
  | drop => exact wellShaped_short _ _
  | valid => exact wellShaped_ok _ _ (Nat.zero_le _) (Nat.zero_le _)

/-! ### Commands and steps -/

/-- Every well-formed command answers a good block with a response that fits. -/
theorem wellShaped_perform (hc : c.WellFormed) (hi : b.Invariant c) {i : Instr}
    (hwf : i.wellFormed = true) : (perform c i b).2.WellShaped := by
  have hfits : i.payload.length ≤ 65535 := of_decide_eq_true hwf
  cases i with
  | chk5 | chk16a | chk16b | chk32 => exact wellShaped_codec fun _ => wellShaped_check _ _
  | enc5 | crc8 | crc9 => exact wellShaped_codec fun _ => wellShaped_value _ (Nat.zero_le _)
  | add16a | add16b =>
    exact wellShaped_codec fun hmin => wellShaped_withTrailer _ hfits (Nat.le_of_succ_le hmin)
  | add32 =>
    exact wellShaped_codec fun hmin => wellShaped_withTrailer _ hfits
      ((length_trailer32 _ _).trans_le (Nat.le_of_succ_le hmin))
  | sync | isbusy | reset => exact wellShaped_gate (wellShaped_ok _ _ (Nat.zero_le _) (Nat.zero_le _))
  | validate => exact wellShaped_gate (wellShaped_validateResponse _)
  | procframe rssi F => exact wellShaped_gate (wellShaped_process hi .rf F rssi)
  | procnet frame =>
    cases frame with
    | none => exact wellShaped_gate (wellShaped_short _ _)
    | some F => exact wellShaped_gate (wellShaped_process hi .net F none)
  | getframe => exact wellShaped_getframe hc hi
  | clock ms =>
    exact wellShaped_gate (wellShaped_ok _ _ (Nat.zero_le _)
      ((length_tick_events_le hi ms).trans (by decide)))
  | rdstat sel => exact wellShaped_rdstat sel
  | rdlc o => exact wellShaped_rdlc hc hi o

/-- Settles O58: a step with an input resets and leaves no response, performs a well-formed command, or
refuses the packet. -/
theorem responsesAreWellShaped : Obligations.ResponsesAreWellShaped := by
  intro s t r hi hinput hstep hresp
  rcases step_cases hstep with ⟨hnone, _⟩ | ⟨_, _, rfl⟩ | ⟨_, _, i, _, hdecode, rfl⟩ |
    ⟨_, _, _, _, _, _, rfl⟩
  · exact absurd hnone hinput
  · cases hresp
  · cases hresp
    have hwf := (encodeDecodeRoundTrip _ i hdecode).1
    exact wellShaped_perform hardwareConfigurationWellFormed.1 hi hwf
  · cases hresp
    exact wellShaped_gate (wellShaped_short _ _)

end Sys2Proof.Machine
end

section
/-! PROOFS. The five-bit commands (`40_errorcodec.md` rules R121 to R123): the value is a sum of nine bytes
modulo 31, and no flip of one bit changes a byte by a multiple of 31. -/

namespace Sys2Proof.Machine

open Sys2Proof.Spec

/-- A codec command on a ready block and a payload of its minimum length answers the `RESULT` of its
response (rule R120). -/
theorem resultOf_of_codec {i : Instr} {s : State} {minLen : Nat} {p : Buffer} {r : Response}
    (hdo : perform cfg i s.blk = codec minLen p s.blk r) (hready : s.blk.fault = false)
    (hlen : minLen ≤ p.length) : resultOf (exec i s) = some r.result := by
  rw [exec_of_codec hdo hready hlen]
  rfl

/-! ### The value (rule R121) -/

/-- The exact sum of a buffer's bytes. -/
def byteSum (B : Buffer) : Nat := (B.map BitVec.toNat).sum

theorem byteSum_append (A B : Buffer) : byteSum (A ++ B) = byteSum A + byteSum B := by
  simp [byteSum]

/-- Summing the first `n` groups is summing the first `n` bytes; a byte past the end counts 0 in both. -/
theorem foldl_fivebitGroup (B : Buffer) (n : Nat) :
    (List.range n).foldl (fun total k => total + fivebitGroup B k) 0 = byteSum (B.take n) := by
  induction n with
  | zero => rfl
  | succ n ih =>
    have hbyte : fivebitGroup B n = byteSum B[n]?.toList := by
      rw [fivebitGroup_eq, List.getD_eq_getElem?_getD]
      cases B[n]? <;> simp [byteSum]
    rw [List.range_succ, List.foldl_append, ih, List.take_add_one, byteSum_append, ← hbyte]
    rfl

theorem fivebitValue_eq (B : Buffer) : fivebitValue B = byteSum (B.take 9) % 31 := by
  rw [fivebitValue, foldl_fivebitGroup]
  rfl

/-- Settles O20: both commands answer the value, which is the sum of the nine bytes. -/
theorem fiveBitCommandsSumNineBytes : Obligations.FiveBitCommandsSumNineBytes := by
  intro expected p s hready hlen v
  have hv : fivebitValue p = v := fivebitValue_eq p
  constructor
  · rw [exec_of_codec (i := .enc5 p) rfl hready hlen, hv]
    rfl
  · rw [exec_of_codec (i := .chk5 expected p) rfl hready hlen, check5, hv]
    rfl

/-! ### Flipping one bit (rules R12, R123) -/

/-- Setting a clear bit adds its weight. -/
theorem toNat_xor_twoPow_of_clear {w : Nat} {b : BitVec w} {j : Nat} (hj : j < w)
    (hclear : b.getLsbD j = false) : (b ^^^ BitVec.twoPow w j).toNat = b.toNat + 2 ^ j := by
  have hand : b &&& BitVec.twoPow w j = 0#w := by simp [BitVec.and_twoPow, hclear]
  have hxor : b ^^^ BitVec.twoPow w j = b + BitVec.twoPow w j := by
    rw [BitVec.add_eq_or_of_and_eq_zero _ _ hand]
    apply BitVec.eq_of_getLsbD_eq
    intro i _
    by_cases hi : j = i
    · simp [← hi, hclear]
    · simp [BitVec.getLsbD_twoPow, hi]
  rw [hxor, BitVec.toNat_add_of_and_eq_zero hand, BitVec.toNat_twoPow_of_lt hj]

/-- Flipping bit `j` adds or removes its weight. -/
theorem toNat_xor_twoPow {w : Nat} (b : BitVec w) {j : Nat} (hj : j < w) :
    (b ^^^ BitVec.twoPow w j).toNat = b.toNat + 2 ^ j ∨
    b.toNat = (b ^^^ BitVec.twoPow w j).toNat + 2 ^ j := by
  cases hbit : b.getLsbD j with
  | false => exact .inl (toNat_xor_twoPow_of_clear hj hbit)
  | true =>
    right
    have hclear : (b ^^^ BitVec.twoPow w j).getLsbD j = false := by simp [hbit, hj]
    have hback := toNat_xor_twoPow_of_clear hj hclear
    rwa [BitVec.xor_assoc, BitVec.xor_self, BitVec.xor_zero] at hback

/-- The bits of a byte stand in the stream most significant first. -/
theorem streamBit_eq_twoPow : ∀ k < 8, 0x80#8 >>> k = BitVec.twoPow 8 (7 - k) := by decide

/-- A flip changes one byte of the buffer, and keeps those before and after it. -/
theorem flipBit_split {B : Buffer} {i : Nat} (hi : i < 8 * B.length) : ∃ before b after,
    B = before ++ b :: after ∧
    flipBit B i = before ++ (b ^^^ BitVec.twoPow 8 (7 - i % 8)) :: after := by
  obtain ⟨before, b, after, hB, -, hflip⟩ :=
    List.exists_of_modify (· ^^^ (0x80#8 >>> (i % 8))) (show i / 8 < B.length by omega)
  refine ⟨before, b, after, hB, ?_⟩
  rw [flipBit, hflip, streamBit_eq_twoPow _ (by omega)]

@[simp] theorem length_flipBit (B : Buffer) (i : Nat) : (flipBit B i).length = B.length :=
  List.length_modify ..

theorem take_flipBit (B : Buffer) (i n : Nat) : (flipBit B i).take n = flipBit (B.take n) i :=
  List.take_modify ..

theorem byteSum_append_cons (before after : Buffer) (b : Byte) :
    byteSum (before ++ b :: after) = byteSum before + b.toNat + byteSum after := by
  rw [byteSum_append, Nat.add_assoc]
  simp [byteSum]

/-- A flip changes the sum of the bytes by the flipped bit's weight. -/
theorem byteSum_flipBit {B : Buffer} {i : Nat} (hi : i < 8 * B.length) :
    byteSum (flipBit B i) = byteSum B + 2 ^ (7 - i % 8) ∨
    byteSum B = byteSum (flipBit B i) + 2 ^ (7 - i % 8) := by
  obtain ⟨before, b, after, hB, hflip⟩ := flipBit_split hi
  rw [hflip, hB, byteSum_append_cons, byteSum_append_cons]
  have hbyte := toNat_xor_twoPow b (show 7 - i % 8 < 8 by omega)
  omega

/-- No bit of a byte weighs a multiple of 31. -/
theorem two_pow_mod_fivebitMod : ∀ j < 8, 2 ^ j % 31 ≠ 0 := by decide

/-- A flip of one of the 72 data bits changes the five-bit value (rule R123 (a)). -/
theorem fivebitValue_flipBit_ne {B : Buffer} {i : Nat} (hlen : 9 ≤ B.length) (hi : i < 72) :
    fivebitValue (flipBit B i) ≠ fivebitValue B := by
  have hnine : (B.take 9).length = 9 := List.length_take_of_le hlen
  have hsum := byteSum_flipBit (B := B.take 9) (i := i) (by omega)
  have hweight := two_pow_mod_fivebitMod (7 - i % 8) (by omega)
  rw [fivebitValue_eq, fivebitValue_eq, take_flipBit]
  omega

/-! ### `CHK5` (rules R122, R123) -/

theorem resultOf_chk5 (e : Byte) {p : Buffer} {s : State} (hready : s.blk.fault = false)
    (hlen : 9 ≤ p.length) : resultOf (exec (.chk5 e p) s) = some (decide (fivebitValue p = e.toNat)) :=
  resultOf_of_codec (i := .chk5 e p) rfl hready hlen

/-- A flipped bit of an expected value makes it another value. -/
theorem toNat_xor_bit_ne (e : Byte) {j : Nat} (hj : j < 8) : (e ^^^ (1#8 <<< j)).toNat ≠ e.toNat := by
  have hflip := toNat_xor_twoPow e hj
  have hweight := Nat.two_pow_pos j
  rw [← BitVec.twoPow_eq]
  omega

/-- Settles O21: each clause compares five-bit values. -/
theorem fiveBitCheckDetectsSingleFlips : Obligations.FiveBitCheckDetectsSingleFlips := by
  intro e p s hready hlen
  constructor
  · intro hpass
    have hmatch : fivebitValue p = e.toNat := by simpa [resultOf_chk5 e hready hlen] using hpass
    refine ⟨fun i hi => ?data, fun j hj => ?expected, fun q hq => ?any⟩
    case data =>
      have hne := fivebitValue_flipBit_ne hlen hi
      rw [hmatch] at hne
      simp [resultOf_chk5 e hready ((length_flipBit p i).symm ▸ hlen), hne]
    case expected =>
      have hne := (toNat_xor_bit_ne e hj).symm
      simp only [resultOf_chk5 _ hready hlen, hmatch, hne, decide_false]
    case any =>
      rw [fivebitValue_eq] at hmatch
      rw [resultOf_chk5 e hready hq, fivebitValue_eq, Option.some_inj, decide_eq_true_iff]
      change _ ↔ ∃ k : Int, (byteSum (q.take 9) : Int) = byteSum (p.take 9) + 31 * k
      constructor
      · intro hq
        exact ⟨byteSum (q.take 9) / 31 - byteSum (p.take 9) / 31, by omega⟩
      · rintro ⟨k, hk⟩
        omega
  · have hlt := fivebitValue_lt p
    have hne : fivebitValue p ≠ (31#8).toNat := hlt.ne
    rw [resultOf_chk5 31#8 hready hlen, decide_eq_false hne]

end Sys2Proof.Machine
end

section
/-! PROOFS. What the checksum commands return and detect (`40_errorcodec.md` rules R150 to R153): the table
look-ups of CRC-8 and CRC-9, the trailers that pass, and the flips that do not. -/

namespace Sys2Proof.Machine

open Sys2Proof.Spec

/-! ### CRC-8 and CRC-9 (rules R150, R151) -/

/-- Keeping the low byte of a table entry is masking it. -/
theorem setWidth_lowByte (v : BitVec 16) : (v.setWidth 8).setWidth 16 = v &&& 0x00FF#16 := by
  apply BitVec.eq_of_toNat_eq
  have hmask : v.toNat &&& 255 = v.toNat % 2 ^ 8 := Nat.and_two_pow_sub_one_eq_mod v.toNat 8
  simp [hmask]
  omega

/-- The masked 16-bit register of rule R151 is the byte register, widened. -/
theorem foldl_masked_eq_crc9Value (table9 : Byte → BitVec 16) (init9 : Byte) (B : Buffer) :
    B.foldl (fun st b => table9 (st.setWidth 8 ^^^ b) &&& 0x00FF#16) (init9.setWidth 16)
      = (crc9Value table9 init9 B).setWidth 16 := by
  refine List.foldl_hom (BitVec.setWidth 16) fun st b => ?_
  have hback : (st.setWidth 16).setWidth 8 = st := by simp
  rw [hback, setWidth_lowByte]

/-- Settles O26: CRC-8 is the fold as it stands, CRC-9 the fold of the masked register. -/
theorem crc8AndCrc9LookUpTheirTables : Obligations.Crc8AndCrc9LookUpTheirTables := by
  intro p s hready hlen
  refine ⟨exec_of_codec (i := .crc8 p) rfl hready hlen, ?_⟩
  intro v
  have hv : v = (crc9Value cfg.table9 cfg.init9 p).setWidth 16 :=
    foldl_masked_eq_crc9Value cfg.table9 cfg.init9 p
  constructor
  · rw [hv]
    exact exec_of_codec (i := .crc9 p) rfl hready hlen
  · rw [hv, BitVec.toNat_setWidth_of_le (by decide)]
    exact BitVec.isLt _

/-! ### One shape for the three CRC variants (rules R130, R140) -/

/-- The inverted register over all but the trailing bytes, of which there are enough for its bits. -/
def crcValue {W : Nat} (P init : BitVec W) (B : Buffer) : BitVec W :=
  ~~~ crcRun P init (B.take (B.length - W / 8))

/-- The verdict on a buffer whose last bytes should be the trailer of its value. -/
def crcVerdict {W : Nat} (P init : BitVec W) (trailer : BitVec W → Buffer) (B : Buffer) : Bool :=
  trailerMatches B (trailer (crcValue P init B))

theorem check16a_eq (B : Buffer) : check16a B = crcVerdict poly16v1 init16v1 trailer16a B := rfl

theorem check16b_eq (B : Buffer) : check16b B = crcVerdict poly16v2 init16v2 trailer16b B := rfl

theorem check32_eq (lsbFirst : Bool) (B : Buffer) :
    check32 lsbFirst B = crcVerdict poly32 init32 (trailer32 lsbFirst) B := rfl

section

variable {W : Nat} {P init : BitVec W} {trailer : BitVec W → Buffer} {B : Buffer} {i : Nat}

theorem crcVerdict_iff (htrailer : ∀ v, (trailer v).length = W / 8) :
    crcVerdict P init trailer B = true
      ↔ B.drop (B.length - W / 8) = trailer (crcValue P init B) := by
  rw [crcVerdict, trailerMatches, decide_eq_true_iff, htrailer]

/-- The trailer of the covered bytes passes: writing it leaves them, and so the value, as they are (rule
R152). -/
theorem crcVerdict_withTrailer (htrailer : ∀ v, (trailer v).length = W / 8) :
    crcVerdict P init trailer (withTrailer B (trailer (crcValue P init B))) = true := by
  have hcovered := take_withTrailer B (trailer (crcValue P init B))
  rw [htrailer] at hcovered
  have hvalue : crcValue P init (withTrailer B (trailer (crcValue P init B))) = crcValue P init B := by
    rw [crcValue, hcovered, crcValue]
  rw [crcVerdict, hvalue, trailerMatches_withTrailer]

/-! ### Flipping one bit (rule R153) -/

/-- Different bytes drive a register of at least eight bits apart. -/
theorem crcUpdate_ne (hP : P.getLsbD 0 = true) (hW : 8 ≤ W) (c : BitVec W) {b b' : Byte}
    (h : b ≠ b') : crcUpdate P c b ≠ crcUpdate P c b' := by
  intro heq
  have hshift := crcUpdate_xor P c c b b'
  rw [heq, BitVec.xor_self, BitVec.xor_self, BitVec.zero_xor] at hshift
  have hzero : (b ^^^ b').setWidth W <<< (W - 8) = 0#W := crcShift_eq_zero hP hshift.symm
  apply h
  rw [← BitVec.xor_eq_zero_iff]
  apply BitVec.eq_of_getLsbD_eq
  intro j hj
  have hbit := congrArg (fun v => v.getLsbD (W - 8 + j)) hzero
  have hin : W - 8 + j < W := by omega
  simpa [hin] using hbit

/-- The flipped bit's byte is another byte. -/
theorem xor_twoPow_ne {w : Nat} (b : BitVec w) {j : Nat} (hj : j < w) :
    b ≠ b ^^^ BitVec.twoPow w j := by
  intro heq
  have hweight := Nat.two_pow_pos j
  have hflip := toNat_xor_twoPow b hj
  rw [← heq] at hflip
  omega

theorem flipBit_ne (hi : i < 8 * B.length) : flipBit B i ≠ B := by
  obtain ⟨before, b, after, hB, hflip⟩ := flipBit_split hi
  rw [hflip, hB]
  simp [(xor_twoPow_ne b (show 7 - i % 8 < 8 by omega)).symm]

/-- A flip past the end of a buffer changes nothing. -/
theorem flipBit_of_le (hi : 8 * B.length ≤ i) : flipBit B i = B :=
  List.modify_eq_self (by omega)

/-- A flip among the first `n` bytes leaves the others as they are. -/
theorem drop_flipBit {n : Nat} (hi : i < 8 * n) : (flipBit B i).drop n = B.drop n := by
  apply List.ext_getElem?
  intro j
  have hne : i / 8 ≠ n + j := by omega
  simp [flipBit, hne]

/-- The register after a buffer depends on every bit of it. -/
theorem crcRun_flipBit_ne (hP : P.getLsbD 0 = true) (hW : 8 ≤ W) (hi : i < 8 * B.length) :
    crcRun P init (flipBit B i) ≠ crcRun P init B := by
  obtain ⟨before, b, after, hB, hflip⟩ := flipBit_split hi
  have hbyte : b ≠ b ^^^ BitVec.twoPow 8 (7 - i % 8) := xor_twoPow_ne b (by omega)
  rw [hflip, hB, crcRun_append, crcRun_append]
  exact crcRun_ne hP after (crcUpdate_ne hP hW _ hbyte.symm)

/-- One flip is detected: in the covered bytes it changes the value and not the trailer, in the trailer it
does not change the value. -/
theorem crcVerdict_flipBit (hP : P.getLsbD 0 = true) (hW : 8 ≤ W)
    (htrailer : ∀ v, (trailer v).length = W / 8) (hinj : Function.Injective trailer)
    (hi : i < 8 * B.length) (hpass : crcVerdict P init trailer B = true) :
    crcVerdict P init trailer (flipBit B i) = false := by
  rw [crcVerdict_iff htrailer] at hpass
  rw [← Bool.not_eq_true, crcVerdict_iff htrailer, length_flipBit]
  intro hflipped
  have hcovered : crcValue P init (flipBit B i)
      = ~~~ crcRun P init (flipBit (B.take (B.length - W / 8)) i) := by
    rw [crcValue, length_flipBit, take_flipBit]
  rcases Nat.lt_or_ge i (8 * (B.length - W / 8)) with hin | hout
  · rw [drop_flipBit hin, hpass] at hflipped
    have hvalue : crcValue P init B = crcValue P init (flipBit B i) := hinj hflipped
    rw [hcovered, crcValue, BitVec.not_inj] at hvalue
    exact crcRun_flipBit_ne hP hW (by rw [List.length_take]; omega) hvalue.symm
  · have htake : flipBit (B.take (B.length - W / 8)) i = B.take (B.length - W / 8) :=
      flipBit_of_le (by rw [List.length_take]; omega)
    rw [hcovered, htake, ← crcValue, ← hpass] at hflipped
    apply flipBit_ne hi
    rw [← List.take_append_drop (B.length - W / 8) (flipBit B i), take_flipBit, htake, hflipped,
      List.take_append_drop]

end

/-! ### Trailers keep the whole value (rules R131, R134, R141) -/

theorem trailer16a_injective : Function.Injective trailer16a := by
  intro v w h
  obtain ⟨hhi, hlo⟩ : hiByte v = hiByte w ∧ loByte v = loByte w := by simpa [trailer16a] using h
  rw [← ofBe16_be16 v, ← ofBe16_be16 w, hhi, hlo]

theorem trailer16b_injective : Function.Injective trailer16b := by
  intro v w h
  obtain ⟨hlo, hhi⟩ : loByte v = loByte w ∧ hiByte v = hiByte w := by simpa [trailer16b] using h
  rw [← ofBe16_be16 v, ← ofBe16_be16 w, hhi, hlo]

theorem trailer32_injective (lsbFirst : Bool) : Function.Injective (trailer32 lsbFirst) := by
  intro v w h
  have hbytes : byteOf32 v 3 = byteOf32 w 3 ∧ byteOf32 v 2 = byteOf32 w 2 ∧
      byteOf32 v 1 = byteOf32 w 1 ∧ byteOf32 v 0 = byteOf32 w 0 := by
    cases lsbFirst <;> simp_all [trailer32]
  obtain ⟨h3, h2, h1, h0⟩ := hbytes
  rw [← ofBe32_be32 v, ← ofBe32_be32 w, h3, h2, h1, h0]

/-! ### The commands (rules R152, R153) -/

section

variable {p : Buffer} {s : State}

theorem resultOf_chk16a (hready : s.blk.fault = false) (hlen : 3 ≤ p.length) :
    resultOf (exec (.chk16a p) s) = some (crcVerdict poly16v1 init16v1 trailer16a p) :=
  resultOf_of_codec (i := .chk16a p) rfl hready hlen

theorem resultOf_chk16b (hready : s.blk.fault = false) (hlen : 3 ≤ p.length) :
    resultOf (exec (.chk16b p) s) = some (crcVerdict poly16v2 init16v2 trailer16b p) :=
  resultOf_of_codec (i := .chk16b p) rfl hready hlen

theorem resultOf_chk32 (hready : s.blk.fault = false) (hlen : 5 ≤ p.length) :
    resultOf (exec (.chk32 p) s) = some (crcVerdict poly32 init32 (trailer32 cfg.crc32LsbFirst) p) :=
  resultOf_of_codec (i := .chk32 p) rfl hready hlen

end

/-- A buffer that meets a minimum length still meets it with its trailer written. -/
theorem le_length_withTrailer {k m : Nat} {B t : Buffer} (ht : t.length = k) (hk : k ≤ m)
    (h : m ≤ B.length) : m ≤ (withTrailer B t).length := by
  rwa [length_withTrailer (ht.trans_le (hk.trans h))]

/-- Settles O27: the block is as before, the returned trailer passes, and the five-bit value fits in the
expected byte. -/
theorem addThenCheckPasses : Obligations.AddThenCheckPasses := by
  intro p s hready
  refine ⟨fun hlen => ?add16a, fun hlen => ?add16b, fun hlen => ?add32, fun hlen => ?enc5⟩
  case add16a =>
    refine ⟨_, _, exec_of_codec (i := .add16a p) rfl hready hlen, rfl, ?_⟩
    exact (resultOf_chk16a hready
      (le_length_withTrailer (length_trailer16a _) (by decide) hlen)).trans
      (congrArg some (crcVerdict_withTrailer length_trailer16a))
  case add16b =>
    refine ⟨_, _, exec_of_codec (i := .add16b p) rfl hready hlen, rfl, ?_⟩
    exact (resultOf_chk16b hready
      (le_length_withTrailer (length_trailer16b _) (by decide) hlen)).trans
      (congrArg some (crcVerdict_withTrailer length_trailer16b))
  case add32 =>
    refine ⟨_, _, exec_of_codec (i := .add32 p) rfl hready hlen, rfl, ?_⟩
    exact (resultOf_chk32 hready
      (le_length_withTrailer (length_trailer32 _ _) (by decide) hlen)).trans
      (congrArg some (crcVerdict_withTrailer (length_trailer32 _)))
  case enc5 =>
    refine ⟨_, _, exec_of_codec (i := .enc5 p) rfl hready hlen, rfl, ?_⟩
    have hfits : ((BitVec.ofNat 32 (fivebitValue p)).setWidth 8).toNat = fivebitValue p := by
      have hlt := fivebitValue_lt p
      simp
      omega
    exact (resultOf_chk5 _ hready hlen).trans (congrArg some (decide_eq_true hfits.symm))

/-- Settles O28: the three variants have odd polynomials and trailers that keep the whole value. -/
theorem crcChecksDetectSingleFlips : Obligations.CrcChecksDetectSingleFlips := by
  intro p i s hready hi
  have hlength := length_flipBit p i
  refine ⟨fun hlen hpass => ?chk16a, fun hlen hpass => ?chk16b, fun hlen hpass => ?chk32⟩
  case chk16a =>
    rw [resultOf_chk16a hready hlen, Option.some_inj] at hpass
    rw [resultOf_chk16a hready (hlength.symm ▸ hlen), crcVerdict_flipBit (by decide) (by decide)
      length_trailer16a trailer16a_injective hi hpass]
  case chk16b =>
    rw [resultOf_chk16b hready hlen, Option.some_inj] at hpass
    rw [resultOf_chk16b hready (hlength.symm ▸ hlen), crcVerdict_flipBit (by decide) (by decide)
      length_trailer16b trailer16b_injective hi hpass]
  case chk32 =>
    rw [resultOf_chk32 hready hlen, Option.some_inj] at hpass
    rw [resultOf_chk32 hready (hlength.symm ▸ hlen), crcVerdict_flipBit (by decide) (by decide)
      (length_trailer32 _) (trailer32_injective _) hi hpass]

end Sys2Proof.Machine
end

section
/-! PROOFS. The validator's check (`43_validator.md` rule R193) against the codec commands of
`40_errorcodec.md` rule R120. -/

namespace Sys2Proof.Machine

open Sys2Proof.Spec

variable {c : Cfg} {s : State}

/-- A codec command on a ready block and a payload of its minimum length keeps the block and answers the
`RESULT` of its response, under any configuration. -/
theorem checksTo_of_codec {i : Instr} {minLen : Nat} {p : Buffer} {r : Response}
    (hdo : perform c i s.blk = codec minLen p s.blk r) (hready : s.blk.fault = false)
    (hlen : minLen ≤ p.length) : checksTo c i s r.result := by
  refine ⟨{ s with resp := some r }, runs_of_perform_same ?_, rfl, rfl⟩
  rw [hdo]
  rcases codec_cases minLen p r hready with ⟨hshort, _⟩ | ⟨_, heq⟩
  · omega
  · exact heq

/-- Every profile of a well-formed configuration checks bytes inside the frame (rule R10, condition 3). -/
theorem check_fits_of_wellFormed (hwf : c.WellFormed) {p : Profile}
    (hp : p = c.voiceProfile ∨ ∃ t, c.profile t = some p) : p.check.fits c.frameLen := by
  rcases hp with rfl | ⟨t, ht⟩
  · exact hwf.voice_check_fits
  · exact hwf.checks_fit t p ht

/-- Bytes inside a frame are as many as were asked for. -/
theorem length_covered {F : Buffer} {off n : Nat} (h : off + n ≤ F.length) :
    ((F.drop off).take n).length = n := by
  rw [List.length_take, List.length_drop]
  omega

/-- Settles O32: the fit of the profile's check gives the lengths, and the verdict is the command's. -/
theorem validatorMeetsCodecMinimum : Obligations.ValidatorMeetsCodecMinimum := by
  intro c F p s hwf hframe hp hready covered ok
  have hfits := check_fits_of_wellFormed hwf hp
  rw [← hframe] at hfits
  obtain ⟨role, check, hasIds, carriesLc⟩ := p
  cases check with
  | none => rfl
  | ccitt16v1 off n =>
    obtain ⟨hmin, hinside⟩ := hfits
    have hlen := length_covered hinside
    exact ⟨hmin, hlen, checksTo_of_codec (i := .chk16a _) rfl hready (hmin.trans_eq hlen.symm)⟩
  | ccitt16v2 off n =>
    obtain ⟨hmin, hinside⟩ := hfits
    have hlen := length_covered hinside
    exact ⟨hmin, hlen, checksTo_of_codec (i := .chk16b _) rfl hready (hmin.trans_eq hlen.symm)⟩
  | crc32 off n =>
    obtain ⟨hmin, hinside⟩ := hfits
    have hlen := length_covered hinside
    exact ⟨hmin, hlen, checksTo_of_codec (i := .chk32 _) rfl hready (hmin.trans_eq hlen.symm)⟩
  | fivebit off eoff esh =>
    obtain ⟨hinside, hexpected, hshift⟩ := hfits
    have hlen := length_covered hinside
    exact ⟨hlen, hexpected, hshift,
      checksTo_of_codec (i := .chk5 _ _) rfl hready hlen.ge⟩

end Sys2Proof.Machine
end

section
/-! PROOFS. The sync-pattern classifier (`41_framesync.md` rules R162 to R164): comparison under the mask byte
by byte, the table's distinct entries, and the commands `SYNC` and `VALIDATE` completing on every payload. -/

namespace Sys2Proof.Machine

open Sys2Proof.Spec

variable {c : Cfg} {B F P : Buffer} {kind : SyncKind}

/-! ### Comparison under the mask (rule R162) -/

/-- Two buffers as long as the mask are equal after masking when they agree byte by byte under it. -/
theorem maskBytes_eq_iff {mask p q : Buffer} {n : Nat} (hmask : mask.length = n) (hp : p.length = n)
    (hq : q.length = n) : maskBytes mask p = maskBytes mask q ↔
      ∀ k < n, p.getD k 0 &&& mask.getD k 0 = q.getD k 0 &&& mask.getD k 0 := by
  have hbyte : ∀ {r : Buffer}, r.length = n → ∀ k < n,
      (maskBytes mask r)[k]? = some (r.getD k 0 &&& mask.getD k 0) := by
    intro r hr k hk
    simp [maskBytes, hr, hmask, hk]
  constructor
  · intro h k hk
    rw [← Option.some_inj, ← hbyte hp k hk, ← hbyte hq k hk, h]
  · intro h
    refine List.ext_getElem? fun k => ?_
    rcases Nat.lt_or_ge k n with hk | hk
    · rw [hbyte hp k hk, hbyte hq k hk, h k hk]
    · simp [maskBytes, hp, hq, hmask, hk]

theorem length_syncField (hlen : c.syncOff + c.syncW ≤ B.length) : (syncField c B).length = c.syncW :=
  length_covered hlen

theorem getD_syncField {k : Nat} (hk : k < c.syncW) :
    (syncField c B).getD k 0 = B.getD (c.syncOff + k) 0 := by
  simp [syncField, slice, List.getD_eq_getElem?_getD, List.getElem?_take_of_lt hk]

/-- A pattern of the sync field's width matches when it agrees with the field on every masked byte. -/
theorem patternMatches_iff (hc : c.Typed) (hP : P.length = c.syncW)
    (hlen : c.syncOff + c.syncW ≤ B.length) : patternMatches c B P = true ↔
      ∀ k < c.syncW, B.getD (c.syncOff + k) 0 &&& c.syncMask.getD k 0
        = P.getD k 0 &&& c.syncMask.getD k 0 := by
  rw [patternMatches, decide_eq_true_iff, maskBytes_eq_iff hc.mask_width (length_syncField hlen) hP]
  exact forall₂_congr fun k hk => by rw [getD_syncField hk]

/-! ### Classification (rules R162, R164) -/

/-- No two entries of a well-formed table match one buffer (rule R10, condition 2). -/
theorem entry_unique (hc : c.WellFormed) {e f : Buffer × SyncKind} (he : e ∈ c.syncTable)
    (hf : f ∈ c.syncTable) (hme : patternMatches c B e.1 = true)
    (hmf : patternMatches c B f.1 = true) : e = f := by
  have hdistinct : (c.syncTable.map fun e => maskBytes c.syncMask e.1).Nodup :=
    List.pairwise_map.2 hc.table_distinct
  exact List.inj_on_of_nodup_map hdistinct he hf
    ((of_decide_eq_true hme).symm.trans (of_decide_eq_true hmf))

theorem classify_of_short (h : B.length < c.syncOff + c.syncW) : classify c B = none := if_pos h

/-- The entry that the search finds is the one that matches. -/
theorem classify_of_matches (hc : c.WellFormed) (hlen : c.syncOff + c.syncW ≤ B.length)
    (hmem : (P, kind) ∈ c.syncTable) (hmatch : patternMatches c B P = true) :
    classify c B = some kind := by
  rw [classify, if_neg hlen.not_gt]
  cases hfind : c.syncTable.find? fun e => patternMatches c B e.1 with
  | none => exact absurd hmatch (List.find?_eq_none.1 hfind _ hmem)
  | some e =>
    have hfound : patternMatches c B e.1 = true :=
      List.find?_some (p := fun e : Buffer × SyncKind => patternMatches c B e.1) hfind
    rw [entry_unique hc (List.mem_of_find?_eq_some hfind) hmem hfound hmatch]
    rfl

theorem classify_of_no_match (h : ∀ e ∈ c.syncTable, ¬ patternMatches c B e.1 = true) :
    classify c B = none := by
  rw [classify, List.find?_eq_none.2 h]
  exact ite_self none

/-! ### The command (rule R163) -/

theorem runs_sync_of_some {s : State} (hready : s.blk.fault = false) (h : classify c B = some kind) :
    Runs c (.sync B) s { s with
      resp := some { status := .ok, result := true, res32 := kindWord kind } } := by
  apply runs_of_perform_same
  rw [perform, doSync, gate_ready hready, h, ← kindCode_eq_kindWord]
  rfl

theorem runs_sync_of_none {s : State} (hready : s.blk.fault = false) (h : classify c B = none) :
    Runs c (.sync B) s { s with resp := some { status := .ok, result := false, res32 := 0 } } := by
  apply runs_of_perform_same
  rw [perform, doSync, gate_ready hready, h]
  rfl

/-- Settles O29: a pattern that agrees under the mask is the only entry that matches; where each entry
differs under the mask, or the field does not fit the buffer, none does. -/
theorem syncClassifiesMaskedPatterns : Obligations.SyncClassifiesMaskedPatterns := by
  intro c B s hc hready
  refine ⟨?agrees, ?differs⟩
  case agrees =>
    intro P kind hmem hlen hagree
    have hkind : classify c B = some kind := classify_of_matches hc hlen hmem
      ((patternMatches_iff hc.toTyped (hc.pattern_width _ hmem) hlen).2 hagree)
    exact ⟨hkind, runs_sync_of_some hready hkind⟩
  case differs =>
    intro hdiffer
    have hnone : classify c B = none := by
      rcases Nat.lt_or_ge B.length (c.syncOff + c.syncW) with hshort | hlen
      · exact classify_of_short hshort
      · refine classify_of_no_match fun e he hmatch => ?_
        obtain ⟨k, hk, hne⟩ := hdiffer.resolve_left hlen.not_gt e he
        exact hne ((patternMatches_iff hc.toTyped (hc.pattern_width e he) hlen).1 hmatch k hk)
    exact ⟨hnone, runs_sync_of_none hready hnone⟩

/-! ### Completion (rules R163, R194, R198) -/

/-- A kind code has three bits (rule R90). -/
theorem toNat_kindWord_lt (kind : SyncKind) : (kindWord kind).toNat < 8 := by
  obtain ⟨content, source⟩ := kind
  cases content <;> cases source <;> decide

/-- After the sync match a frame is dropped for its type or its checksum only. -/
theorem validateKind_drop_status {status : Status} {k : Option SyncKind} {type : Option Byte}
    (h : validateKind c F kind = .drop status k type) : status = .dropType ∨ status = .dropCheck := by
  have hcheck : ∀ {t p}, validateCheck c F kind t p = .drop status k type → status = .dropCheck := by
    intro t p h
    rw [validateCheck] at h
    split at h <;> cases h
    rfl
  cases hcontent : kind.content with
  | voice => exact .inr (hcheck (validateKind_voice hcontent ▸ h))
  | data =>
    cases hp : c.profile (c.typeOf F) with
    | none =>
      rw [validateKind_unknown hcontent hp] at h
      cases h
      exact .inl rfl
    | some p => exact .inr (hcheck (validateKind_data hcontent hp ▸ h))

/-- The length is the first stage and the only one that answers `DROP_LENGTH`. -/
theorem drop_status_eq_dropLength_iff {status : Status} {k : Option SyncKind} {type : Option Byte}
    (h : validate c F = .drop status k type) : status = .dropLength ↔ F.length ≠ c.frameLen := by
  by_cases hlen : F.length = c.frameLen
  · refine iff_of_false ?_ (not_not.2 hlen)
    cases hkind : classify c F with
    | none =>
      rw [validate_of_classify_none hlen hkind] at h
      cases h
      decide
    | some kind =>
      rw [validate_of_classify_some hlen hkind] at h
      rcases validateKind_drop_status h with rfl | rfl <;> decide
  · rw [validate_of_length_ne hlen] at h
    cases h
    exact iff_of_true rfl hlen

/-- A drop is answered with its status, which is none of success, and `RESULT` 0. -/
theorem validateResponse_drop {status : Status} (h : status ≠ .ok) (k : Option SyncKind)
    (type : Option Byte) : validateResponse (.drop status k type) =
      { status := status, result := decide (status = .ok), res32 := validateWord k type none } := by
  rw [decide_eq_false h]
  rfl

/-- Settles O30: `SYNC` answers by the classification and `VALIDATE` by the verdict; a valid frame has the
frame length, and a dropped one the status of its stage. -/
theorem syncAndValidateComplete : Obligations.SyncAndValidateComplete := by
  intro F s hready
  constructor
  · cases hkind : classify cfg F with
    | none =>
      exact ⟨false, 0, (runs_sync_of_none hready hkind).2 rfl, rfl, fun _ => rfl, by decide⟩
    | some kind =>
      exact ⟨true, kindWord kind, (runs_sync_of_some hready hkind).2 rfl, rfl, nofun,
        toNat_kindWord_lt kind⟩
  · cases hv : validate cfg F with
    | drop status kind type =>
      have hstatus := validate_drop_status hv
      have hne : status ≠ .ok := by rcases hstatus with rfl | rfl | rfl | rfl <;> decide
      exact ⟨status, _, (runs_validate hready hv (validateResponse_drop hne kind type)).2 rfl,
        by simpa [hne] using hstatus, drop_status_eq_dropLength_iff hv⟩
    | valid kind type p =>
      exact ⟨.ok, _, (runs_validate hready hv rfl).2 rfl, by decide,
        iff_of_false (by decide) (not_not.2 (length_of_valid hv))⟩

end Sys2Proof.Machine
end

section
/-! PROOFS. `GETFRAME` (`44_control.md` rule R238), and the whole next state of a `CLOCK` in which no timer
expires (rule R242) or an origin's timeout is reached (rules R243, R244). -/

namespace Sys2Proof.Machine

open Sys2Proof.Spec

/-! ### The end of a call (rules R33, R219, R228) -/

theorem satInc_eq_saturated (v : Word32) : satInc v = saturated v :=
  BitVec.eq_of_toNat_eq <| by
    have hlt : min (v.toNat + 1) (2 ^ 32 - 1) < 2 ^ 32 := by omega
    rw [toNat_satInc, saturated, BitVec.toNat_ofNat, Nat.mod_eq_of_lt hlt]

theorem ended_eq_endedHalf (h : Half) (reason : EndReason) : h.ended reason = endedHalf reason h := by
  cases reason <;> simp [Half.ended, endedHalf, Counters.countEnd, satInc_eq_saturated, Timer.stop]

theorem endCall_eq_endedBlock (c : Cfg) (o : Origin) (reason : EndReason) (b : Block) :
    endCall c o reason b = endedBlock c o reason b := by
  simp [endCall, endedBlock, ended_eq_endedHalf, Timer.start]

/-- A report is sent only of a record with samples, whose average is the truncated quotient. -/
theorem endEvents_eq_callEndEvents (o : Origin) (reason : EndReason) (b : Block) :
    endEvents o reason b = callEndEvents o reason b.ctx (b.half o).rssi := by
  by_cases hnone : (b.half o).rssi.count = 0#32 <;>
    simp [endEvents, callEndEvents, contextEvent, rssiEvent, RssiStats.minMaxWord,
      RssiStats.avgWord_eq, hnone]

/-! ### `CLOCK` (rules R240 to R244) -/

/-- The clock in which no timer expires, with the retry read as rule R241 has it. -/
theorem advanceTimers_retryPending (c : Cfg) {b : Block} {ms : Word32} (hrf : outlasts ms b.rf.tmo)
    (hnet : outlasts ms b.net.tmo) (hhang : outlasts ms b.ctx.hang) :
    advanceTimers ms (retryPending c b) = { retried c b with
      rf := { b.rf with tmo := later ms b.rf.tmo }
      net := { b.net with tmo := later ms b.net.tmo }
      ctx := { b.ctx with hang := later ms b.ctx.hang } } := by
  rw [advanceTimers, retryPending_rf, retryPending_net, retryPending_ctx, advance_of_outlasts hrf,
    advance_of_outlasts hnet, advance_of_outlasts hhang, retryPending_eq_retried]

/-- Settles O49: no timer expires, so the retry and the advance are all that this clock does. -/
theorem clockAdvancesRunningTimers : Obligations.ClockAdvancesRunningTimers := by
  intro ms s hready hrf hnet hhang
  rw [exec_clock hready, tick_of_outlasts cfg hrf hnet hhang,
    advanceTimers_retryPending cfg hrf hnet hhang]
  rfl

/-- Settles O50: the clock in which a timeout is reached ends the call over the retried block, and the
retry touches neither the context nor the record that the events show. -/
theorem timeoutEndsCall : Obligations.TimeoutEndsCall := by
  intro o ms s hready htmo hother
  rw [exec_clock hready, tick_of_timeout cfg htmo hother, endCall_eq_endedBlock,
    endEvents_eq_callEndEvents, retryPending_eq_retried]
  rfl

/-! ### `GETFRAME` (rules R172, R238) -/

theorem exec_getframe_of_empty {s : State} (hready : s.blk.fault = false) (hq : s.blk.q = []) :
    exec .getframe s = .next { s with resp := some { status := .ok, result := true } } := by
  refine exec_of_perform_same ?_
  rw [perform, doGetframe, gate_ready hready, qPop_eq_none.2 hq]

theorem exec_getframe_of_cons {s : State} {e : QEntry} {rest : List QEntry}
    (hready : s.blk.fault = false) (hq : s.blk.q = e :: rest) :
    exec .getframe s = .next (s.answer ({ s.blk with q := rest },
      { status := .ok, result := true
        res32 := (originCode e.origin).setWidth 32, payload := e.bytes })) := by
  rw [exec_next, perform, doGetframe, gate_ready hready, qPop_eq_some.2 hq]

/-- Settles O47: the queue is empty or has a head, whose origin tag is 0 for RF and 1 for NET. -/
theorem getframeReturnsOldestEntry : Obligations.GetframeReturnsOldestEntry := by
  intro s hready
  refine ⟨exec_getframe_of_empty hready, fun e rest hq => ?_⟩
  rw [exec_getframe_of_cons hready hq]
  obtain ⟨origin, bytes⟩ := e
  cases origin <;> rfl

end Sys2Proof.Machine
end

section
/-! PROOFS. The operations of ProtocolControl (`44_control.md` rules R212 to R229) in the words of the
statements: counting, accepting and delivering a frame, and arbitration as rule R221 decides it. -/

namespace Sys2Proof.Machine

open Sys2Proof.Spec

variable {c : Cfg} {b : Block} {o : Origin} {F : Buffer} {p : Profile} {rssi : Option (BitVec 16)}
  {h : HeaderIds}

/-! ### Counting (rule R33) -/

/-- What an error of a class counts beside `err`. -/
def ErrorClass.counted : ErrorClass → Counters → Counters
  | .malformed, n => { n with malformed := saturated n.malformed }
  | .check, n => { n with check := saturated n.check }
  | .seq, n => { n with seq := saturated n.seq }
  | .id, n => { n with id := saturated n.id }
  | .arbReject, n => { n with arbReject := saturated n.arbReject }
  | .arbDup, n => { n with arbDup := saturated n.arbDup }
  | .hangReject, n => { n with hangReject := saturated n.hangReject }

theorem countError_eq_errorCounted (o : Origin) (k : ErrorClass) (b : Block) :
    countError o k b = errorCounted o k.counted b := by
  cases k <;>
    simp [countError, errorCounted, Counters.countError, ErrorClass.counted, satInc_eq_saturated]

/-! ### Accepting and delivering (rules R223, R226, R229) -/

/-- Accepting differs from rule R223's held half in its timer only, which restarts on request. -/
theorem accept_eq_heldHalf (h : Half) (restart : Bool) : h.accept c o F p rssi restart =
    { heldHalf c o F p rssi h.st h with
      tmo := if restart then Timer.start (timeoutMs c o) else h.tmo } := by
  cases rssi <;> cases hlc : p.carriesLc <;>
    simp [Half.accept, heldHalf, sampled, hlc, satInc_eq_saturated]

theorem enqueue_eq_delivered (c : Cfg) (o : Origin) (F : Buffer) (b : Block) :
    enqueue c o F b = delivered c o F b := by
  rcases enqueue_cases c o F b with ⟨hroom, e⟩ | ⟨hfull, e⟩ <;> rw [e, delivered]
  · rw [if_neg hroom]
  · rw [if_pos hfull]

theorem acceptQueued_eq_delivered (b : Block) : acceptQueued c o F p rssi b =
    delivered c o F (b.setHalf o (heldHalf c o F p rssi (b.half o).st (b.half o))) := by
  rw [acceptQueued, enqueue_eq_delivered, accept_eq_heldHalf]
  cases o <;> rfl

/-- A frame of an open call leaves it Active (rule R214). -/
theorem acceptQueued_active (b : Block) : acceptQueued c o F p rssi (setState o .active b) =
    delivered c o F (b.setHalf o (heldHalf c o F p rssi .active (b.half o))) := by
  rw [acceptQueued_eq_delivered]
  cases o <;> rfl

/-- A repeated header leaves its call Active, with its own source (rule R217). -/
theorem acceptQueued_continuedCall (b : Block) : acceptQueued c o F p rssi (continuedCall o h b) =
    delivered c o F { b.setHalf o (heldHalf c o F p rssi .active (b.half o)) with
      ctx := { b.ctx with src := h.src } } := by
  rw [acceptQueued_eq_delivered]
  cases o <;> rfl

/-- The header that opens a call is its first frame (rule R222). -/
theorem openCall_eq_openedBlock (events : List Event) (b : Block) :
    openCall c o F p rssi h events b = (openedBlock c o F p rssi h b,
      accepted (decide (b.q.length = c.queueDepth)) (events ++ [headerRecord .callStart o h])) := by
  rw [openCall, acceptQueued_eq_delivered]
  cases o <;> rfl

@[simp] theorem half_delivered (c : Cfg) (o o' : Origin) (F : Buffer) (b : Block) :
    (delivered c o F b).half o' = b.half o' := by
  rw [← enqueue_eq_delivered, half_enqueue]

@[simp] theorem delivered_ctx (c : Cfg) (o : Origin) (F : Buffer) (b : Block) :
    (delivered c o F b).ctx = b.ctx := by
  rw [← enqueue_eq_delivered, enqueue_ctx]

/-! ### The end of a call (rule R219) -/

@[simp] theorem half_endedBlock (c : Cfg) (o : Origin) (reason : EndReason) (b : Block) :
    (endedBlock c o reason b).half o = endedHalf reason (b.half o) := by cases o <;> rfl

@[simp] theorem half_endedBlock_other (c : Cfg) (o : Origin) (reason : EndReason) (b : Block) :
    (endedBlock c o reason b).half (other o) = b.half (other o) := by cases o <;> rfl

@[simp] theorem endedBlock_q (c : Cfg) (o : Origin) (reason : EndReason) (b : Block) :
    (endedBlock c o reason b).q = b.q := by simp [endedBlock]

@[simp] theorem endedBlock_pend (c : Cfg) (o : Origin) (reason : EndReason) (b : Block) :
    (endedBlock c o reason b).pend = b.pend := by simp [endedBlock]

/-! ### Arbitration (rules R36, R221) -/

theorem favoured_iff (c : Cfg) (o : Origin) : favoured c o = true ↔ isFavoured c o := by
  unfold favoured isFavoured
  cases c.arbPolicy <;> cases o <;> simp

theorem sameDst_iff_sameDestination (ctx : Context) (h : HeaderIds) :
    ctx.sameDst h.dst h.grp = true ↔ sameDestination ctx h := ctx.sameDst_iff h.dst h.grp

theorem hangRefuses_iff (ctx : Context) : hangRefuses c o h ctx ↔
    ctx.valid = true ∧ ctx.hang.ts = .running ∧ o ≠ ctx.owner ∧ ctx.sameDst h.dst h.grp = false ∧
      favoured c o = false := by
  rw [hangRefuses, ← sameDst_iff_sameDestination, ← favoured_iff, Bool.not_eq_true, Bool.not_eq_true]

theorem arbitrate_duplicate (hother : (b.half (other o)).st ≠ .idle) (hsame : sameDestination b.ctx h) :
    arbitrate c o h b = .duplicate := by
  rw [arbitrate, if_pos hother, if_pos ((sameDst_iff_sameDestination ..).2 hsame)]

theorem arbitrate_preempt (hother : (b.half (other o)).st ≠ .idle)
    (hsame : ¬ sameDestination b.ctx h) (hfav : isFavoured c o) : arbitrate c o h b = .preempt := by
  rw [arbitrate, if_pos hother, if_neg (mt (sameDst_iff_sameDestination ..).1 hsame),
    if_pos ((favoured_iff ..).2 hfav)]

theorem arbitrate_reject (hother : (b.half (other o)).st ≠ .idle)
    (hsame : ¬ sameDestination b.ctx h) (hfav : ¬ isFavoured c o) : arbitrate c o h b = .reject := by
  rw [arbitrate, if_pos hother, if_neg (mt (sameDst_iff_sameDestination ..).1 hsame),
    if_neg (mt (favoured_iff ..).1 hfav)]

theorem arbitrate_hangReject (hother : (b.half (other o)).st = .idle)
    (hhang : hangRefuses c o h b.ctx) : arbitrate c o h b = .hangReject := by
  rw [arbitrate, if_neg (not_not.2 hother), if_pos ((hangRefuses_iff _).1 hhang)]

theorem arbitrate_clear (hother : (b.half (other o)).st = .idle)
    (hhang : ¬ hangRefuses c o h b.ctx) : arbitrate c o h b = .clear := by
  rw [arbitrate, if_neg (not_not.2 hother), if_neg (mt (hangRefuses_iff _).2 hhang)]

/-! ### Admission of a header (rules R220 to R222) -/

/-- The lookups come first: without them no arbitration is made. -/
theorem admitHeader_idReject (events : List Event) (hids : ¬ lookupsAdmit c h) :
    admitHeader c o F p rssi h events b = (errorCounted o ErrorClass.id.counted b,
      rejected .dropId (events ++ [headerRecord .idReject o h])) := by
  rw [admitHeader, if_neg (mt (idsOk_iff h).1 hids), countError_eq_errorCounted]
  rfl

theorem admitHeader_duplicate (events : List Event) (hids : lookupsAdmit c h)
    (hother : (b.half (other o)).st ≠ .idle) (hsame : sameDestination b.ctx h) :
    admitHeader c o F p rssi h events b = (errorCounted o ErrorClass.arbDup.counted b,
      rejected .arbDuplicate (events ++ [headerRecord .arbDuplicate o h])) := by
  simp only [admitHeader, (idsOk_iff h).2 hids, arbitrate_duplicate hother hsame,
    countError_eq_errorCounted]
  rfl

theorem admitHeader_reject (events : List Event) (hids : lookupsAdmit c h)
    (hother : (b.half (other o)).st ≠ .idle) (hsame : ¬ sameDestination b.ctx h)
    (hfav : ¬ isFavoured c o) :
    admitHeader c o F p rssi h events b = (errorCounted o ErrorClass.arbReject.counted b,
      rejected .arbReject (events ++ [headerRecord .arbReject o h])) := by
  simp only [admitHeader, (idsOk_iff h).2 hids, arbitrate_reject hother hsame hfav,
    countError_eq_errorCounted]
  rfl

theorem admitHeader_hangReject (events : List Event) (hids : lookupsAdmit c h)
    (hother : (b.half (other o)).st = .idle) (hhang : hangRefuses c o h b.ctx) :
    admitHeader c o F p rssi h events b = (errorCounted o ErrorClass.hangReject.counted b,
      rejected .hangReject (events ++ [headerRecord .hangReject o h])) := by
  simp only [admitHeader, (idsOk_iff h).2 hids, arbitrate_hangReject hother hhang,
    countError_eq_errorCounted]
  rfl

theorem admitHeader_preempt (events : List Event) (hids : lookupsAdmit c h)
    (hother : (b.half (other o)).st ≠ .idle) (hsame : ¬ sameDestination b.ctx h)
    (hfav : isFavoured c o) : admitHeader c o F p rssi h events b =
      (openedBlock c o F p rssi h (endedBlock c (other o) .preempted b),
        accepted (decide (b.q.length = c.queueDepth))
          (events ++ callEndEvents (other o) .preempted b.ctx (b.half (other o)).rssi
            ++ [headerRecord .callStart o h])) := by
  simp only [admitHeader, (idsOk_iff h).2 hids, arbitrate_preempt hother hsame hfav,
    openCall_eq_openedBlock, endCall_eq_endedBlock, endEvents_eq_callEndEvents, endedBlock_q]
  rfl

theorem admitHeader_open (events : List Event) (hids : lookupsAdmit c h)
    (hother : (b.half (other o)).st = .idle) (hhang : ¬ hangRefuses c o h b.ctx) :
    admitHeader c o F p rssi h events b = (openedBlock c o F p rssi h b,
      accepted (decide (b.q.length = c.queueDepth)) (events ++ [headerRecord .callStart o h])) := by
  simp only [admitHeader, (idsOk_iff h).2 hids, arbitrate_clear hother hhang,
    openCall_eq_openedBlock]
  rfl

end Sys2Proof.Machine
end

section
/-! PROOFS. What `PROCFRAME` and `PROCNET` do with a frame (`44_control.md` rules R211 to R223): the whole
next state, by the verdict of validation, the role of the frame and the state of its half. -/

namespace Sys2Proof.Machine

open Sys2Proof.Spec

variable {c : Cfg} {b b' : Block} {o : Origin} {F : Buffer} {p : Profile} {rssi : Option (BitVec 16)}
  {kind : SyncKind} {type : Byte} {s : State} {r : Response}

/-! ### Presenting a frame (rules R93, R210, R213) -/

/-- A block that is not faulted answers a frame with what `process` makes of it. -/
theorem runs_offer (hready : s.blk.fault = false)
    (h : process c o F (sampleOf o rssi) s.blk = (b', r)) :
    Runs c (offer o rssi F) s { s with blk := b', resp := some r } := by
  have hperform : perform c (offer o rssi F) s.blk = (b', r) := by
    rw [perform_offer, gate_ready hready, h]
  refine ⟨by rw [hperform]; rfl, ?_⟩
  rintro rfl
  rw [exec_next, hperform]
  rfl

theorem process_pending (hp : b.pend.valid = true) :
    process c o F rssi b = ({ b with cntBp := saturated b.cntBp }, rejected .backpressure []) := by
  rw [process, if_pos hp, satInc_eq_saturated]

theorem process_drop {status : Status} {kind : Option SyncKind} {type : Option Byte}
    (hp : b.pend.valid = false) (hv : validate c F = .drop status kind type) :
    process c o F rssi b = (errorCounted o (dropClass status).counted b, rejected status []) := by
  simp only [process, hp, hv, countError_eq_errorCounted]
  rfl

theorem process_payload (hp : b.pend.valid = false) (hv : validate c F = .valid kind type p)
    (hr : p.role = .payload) : process c o F rssi b = processPayload c o F p rssi b := by
  rw [process_valid hp hv, hr]

theorem process_terminator (hp : b.pend.valid = false) (hv : validate c F = .valid kind type p)
    (hr : p.role = .terminator) : process c o F rssi b = processTerminator c o F p rssi b := by
  rw [process_valid hp hv, hr]

theorem process_header (hp : b.pend.valid = false) (hv : validate c F = .valid kind type p)
    (hr : p.role = .header) : process c o F rssi b = processHeader c o F p rssi b := by
  rw [process_valid hp hv, hr]

/-! ### Frames that are not examined, and frames that fail validation (rules R211, R212) -/

/-- Settles O33: the backpressure gate comes before validation. -/
theorem pendingFrameRefusesFrames : Obligations.PendingFrameRefusesFrames := by
  intro o rssi F s hready hp
  exact (runs_offer hready (process_pending hp)).2 rfl

/-- Settles O34: of the four statuses of a drop, `DROP_CHECK` alone counts as a check failure. -/
theorem invalidFramesOnlyCount : Obligations.InvalidFramesOnlyCount := by
  rintro c o rssi F s status kind type - ⟨hready, hp⟩ hv
  have hrun := runs_offer (o := o) (rssi := rssi) hready (process_drop hp hv)
  rcases validate_drop_status hv with rfl | rfl | rfl | rfl
  · exact .inl ⟨by decide, hrun⟩
  · exact .inl ⟨by decide, hrun⟩
  · exact .inl ⟨by decide, hrun⟩
  · exact .inr ⟨rfl, hrun⟩

/-! ### Payload frames (rule R214) -/

theorem processPayload_of_idle (hidle : (b.half o).st = .idle) : processPayload c o F p rssi b =
    (errorCounted o ErrorClass.seq.counted b, rejected .dropSeq []) := by
  rw [processPayload, if_pos hidle, countError_eq_errorCounted]

theorem processPayload_of_open (hopen : (b.half o).st ≠ .idle) : processPayload c o F p rssi b =
    (delivered c o F (b.setHalf o (heldHalf c o F p rssi .active (b.half o))),
      accepted (decide (b.q.length = c.queueDepth)) []) := by
  rw [processPayload, if_neg hopen, acceptQueued_active]
  rfl

/-- Settles O35: the half is Idle or has a call open. -/
theorem payloadFrameNeedsOpenCall : Obligations.PayloadFrameNeedsOpenCall := by
  rintro c o rssi F s kind type p - ⟨hready, hp⟩ hv hr
  have hprocess := process_payload (o := o) (rssi := sampleOf o rssi) hp hv hr
  split
  · next hidle => exact runs_offer hready (hprocess.trans (processPayload_of_idle hidle))
  · next hopen => exact runs_offer hready (hprocess.trans (processPayload_of_open hopen))

/-! ### Terminators (rule R215) -/

theorem processTerminator_of_idle (hidle : (b.half o).st = .idle) :
    processTerminator c o F p rssi b =
      (b.setHalf o { b.half o with
        cnt := { (b.half o).cnt with ignored := saturated (b.half o).cnt.ignored } },
        rejected .ignored []) := by
  rw [processTerminator, if_pos hidle, ← satInc_eq_saturated]

theorem processTerminator_of_foreign (hopen : (b.half o).st ≠ .idle) (hids : p.hasIds = true)
    (hforeign : ¬ sameDestination b.ctx (c.hdrOf F)) : processTerminator c o F p rssi b =
      (errorCounted o ErrorClass.seq.counted b, rejected .dropSeq []) := by
  have hdst : b.ctx.sameDst (c.hdrOf F).dst (c.hdrOf F).grp = false :=
    Bool.eq_false_iff.2 (mt (sameDst_iff_sameDestination ..).1 hforeign)
  rw [processTerminator, if_neg hopen, if_pos (by simp [hids, hdst]), countError_eq_errorCounted]

/-- The terminator is accepted before its call ends, so its sample is in the report; accepting leaves the
context as it was. -/
theorem processTerminator_of_own (hopen : (b.half o).st ≠ .idle)
    (hown : p.hasIds = true → sameDestination b.ctx (c.hdrOf F)) :
    processTerminator c o F p rssi b =
      (endedBlock c o .graceful (b.setHalf o
        { heldHalf c o F p rssi (b.half o).st (b.half o) with tmo := (b.half o).tmo }),
        accepted false (callEndEvents o .graceful b.ctx (sampled c rssi (b.half o).rssi))) := by
  have hdst : ¬ (p.hasIds && !b.ctx.sameDst (c.hdrOf F).dst (c.hdrOf F).grp) = true := by
    simpa using fun hids => (sameDst_iff_sameDestination ..).2 (hown hids)
  rw [processTerminator, if_neg hopen, if_neg hdst]
  simp only [terminate, acceptUnqueued, accept_eq_heldHalf, endCall_eq_endedBlock,
    endEvents_eq_callEndEvents, Block.setHalf_ctx, Block.half_setHalf]
  rfl

/-- Settles O36: the half is Idle, the terminator is of another destination, or it ends the call. -/
theorem terminatorEndsItsCall : Obligations.TerminatorEndsItsCall := by
  rintro c o rssi F s kind type p - ⟨hready, hp⟩ hv hr
  have hprocess := process_terminator (o := o) (rssi := sampleOf o rssi) hp hv hr
  refine ⟨fun hidle => ?_, fun hopen hids hforeign => ?_, fun hopen hown => ?_⟩
  · exact runs_offer hready (hprocess.trans (processTerminator_of_idle hidle))
  · exact runs_offer hready (hprocess.trans (processTerminator_of_foreign hopen hids hforeign))
  · exact runs_offer hready (hprocess.trans (processTerminator_of_own hopen hown))

/-! ### Headers (rules R216 to R218, R220 to R222) -/

theorem processHeader_of_idle (hidle : (b.half o).st = .idle) : processHeader c o F p rssi b =
    admitHeader c o F p rssi (c.hdrOf F) [] b := by
  rw [processHeader, if_pos hidle]

theorem processHeader_of_own (hopen : (b.half o).st ≠ .idle)
    (hown : sameDestination b.ctx (c.hdrOf F)) : processHeader c o F p rssi b =
      (delivered c o F { b.setHalf o (heldHalf c o F p rssi .active (b.half o)) with
        ctx := { b.ctx with src := (c.hdrOf F).src } },
        accepted (decide (b.q.length = c.queueDepth)) []) := by
  rw [processHeader, if_neg hopen, if_pos ((sameDst_iff_sameDestination ..).2 hown),
    ← acceptQueued_continuedCall]
  rfl

/-- The call that the header ends shows in the events whatever becomes of the header. -/
theorem processHeader_of_foreign (hopen : (b.half o).st ≠ .idle)
    (hforeign : ¬ sameDestination b.ctx (c.hdrOf F)) : processHeader c o F p rssi b =
      admitHeader c o F p rssi (c.hdrOf F) (callEndEvents o .forced b.ctx (b.half o).rssi)
        (endedBlock c o .forced b) := by
  rw [processHeader, if_neg hopen, if_neg (mt (sameDst_iff_sameDestination ..).1 hforeign),
    endCall_eq_endedBlock, endEvents_eq_callEndEvents]

/-- With both halves Idle only the lookups and the hang timer can refuse a header. -/
theorem processHeader_of_clear (hrf : b.rf.st = .idle) (hnet : b.net.st = .idle)
    (hids : lookupsAdmit c (c.hdrOf F)) (hhang : ¬ hangRefuses c o (c.hdrOf F) b.ctx) :
    processHeader c o F p rssi b = (openedBlock c o F p rssi (c.hdrOf F) b,
      accepted (decide (b.q.length = c.queueDepth)) [headerRecord .callStart o (c.hdrOf F)]) := by
  have hidle : ∀ o, (b.half o).st = .idle := by rintro (_ | _) <;> assumption
  rw [processHeader_of_idle (hidle o), admitHeader_open [] hids (hidle (other o)) hhang]
  rfl

/-- Settles O37: `processHeader_of_clear` is the whole next state. -/
theorem admittedHeaderOpensCall : Obligations.AdmittedHeaderOpensCall := by
  rintro c o rssi F s kind type p - ⟨hready, hp⟩ hv hr hrf hnet hids hhang
  exact runs_offer hready
    ((process_header hp hv hr).trans (processHeader_of_clear hrf hnet hids hhang))

/-- Settles O38: the four refusals in the order in which rules R220 and R221 test for them. -/
theorem refusedHeadersOnlyCount : Obligations.RefusedHeadersOnlyCount := by
  rintro c o rssi F s kind type p - ⟨hready, hp⟩ hv hr hidle
  have hprocess := (process_header (o := o) (rssi := sampleOf o rssi) hp hv hr).trans
    (processHeader_of_idle hidle)
  refine ⟨fun hids => ?_, fun hids hother hsame => ?_, fun hids hother hsame hfav => ?_,
    fun hids hother hhang => ?_⟩
  · exact runs_offer hready (hprocess.trans (admitHeader_idReject [] hids))
  · exact runs_offer hready (hprocess.trans (admitHeader_duplicate [] hids hother hsame))
  · exact runs_offer hready (hprocess.trans (admitHeader_reject [] hids hother hsame hfav))
  · exact runs_offer hready (hprocess.trans (admitHeader_hangReject [] hids hother hhang))

/-- Settles O39: the call of the other origin ends, and the header opens its own over the ended block. -/
theorem favouredHeaderPreempts : Obligations.FavouredHeaderPreempts := by
  rintro c o rssi F s kind type p - ⟨hready, hp⟩ hv hr hidle hother hids hsame hfav
  refine runs_offer hready ?_
  rw [process_header hp hv hr, processHeader_of_idle hidle,
    admitHeader_preempt [] hids hother hsame hfav]
  rfl

/-- Settles O40: a header of the open call's own destination is not admitted anew. -/
theorem repeatedHeaderContinuesCall : Obligations.RepeatedHeaderContinuesCall := by
  rintro c o rssi F s kind type p - ⟨hready, hp⟩ hv hr hopen hown
  exact runs_offer hready ((process_header hp hv hr).trans (processHeader_of_own hopen hown))

/-- Settles O41: after the forced end the header is admitted or refused as on an idle half, behind the end's
events. -/
theorem foreignHeaderForcesEnd : Obligations.ForeignHeaderForcesEnd := by
  rintro c o rssi F s kind type p - ⟨hready, hp⟩ hv hr hopen hother hforeign
  have hprocess := (process_header (o := o) (rssi := sampleOf o rssi) hp hv hr).trans
    (processHeader_of_foreign hopen hforeign)
  have hother' : ((endedBlock c o .forced s.blk).half (other o)).st = .idle := by simpa using hother
  refine ⟨fun hids => ?_, fun hids hhang => ?_⟩
  · exact runs_offer hready (hprocess.trans (admitHeader_idReject _ hids))
  · rw [← endedBlock_q c o .forced s.blk]
    exact runs_offer hready (hprocess.trans (admitHeader_open _ hids hother' hhang))

end Sys2Proof.Machine
end

section
/-! PROOFS. Statements about every frame (`44_control.md` rules R210, R213, R221, R225, R231): the answer to
a frame, what its kind makes of it, and what it does to the other origin's half. -/

namespace Sys2Proof.Machine

open Sys2Proof.Spec

variable {c : Cfg} {b b' : Block} {o : Origin} {F : Buffer} {p : Profile} {rssi : Option (BitVec 16)}
  {s : State}

/-! ### The answer to a frame (rule R210) -/

/-- The next block and the answer of a frame: rejected, with nothing delivered, or accepted. -/
inductive FrameAnswer (b : Block) : Block × Response → Prop
  | rejected {b' : Block} {status : Status} (events : List Event) : status ≠ .ok →
    b'.undelivered = b.undelivered → FrameAnswer b (b', rejected status events)
  | accepted (b' : Block) (bp : Bool) (events : List Event) : FrameAnswer b (b', accepted bp events)

theorem undelivered_countError (o : Origin) (k : ErrorClass) (b : Block) :
    (countError o k b).undelivered = b.undelivered := undelivered_congr (by simp) (by simp)

theorem undelivered_setHalf (o : Origin) (h : Half) (b : Block) :
    (b.setHalf o h).undelivered = b.undelivered := undelivered_congr (by simp) (by simp)

theorem undelivered_endedBlock (c : Cfg) (o : Origin) (reason : EndReason) (b : Block) :
    (endedBlock c o reason b).undelivered = b.undelivered := undelivered_congr (by simp) (by simp)

/-- Counting an error and answering a status other than ACCEPTED rejects the frame. -/
theorem frameAnswer_countError {status : Status} (hstatus : status ≠ .ok) (o : Origin) (k : ErrorClass)
    (events : List Event) : FrameAnswer b (countError o k b, rejected status events) :=
  .rejected events hstatus (undelivered_countError o k b)

theorem frameAnswer_processPayload : FrameAnswer b (processPayload c o F p rssi b) := by
  unfold processPayload
  split
  · exact frameAnswer_countError (by decide) ..
  · exact .accepted ..

theorem frameAnswer_processTerminator : FrameAnswer b (processTerminator c o F p rssi b) := by
  unfold processTerminator
  split
  · exact .rejected _ (by decide) (undelivered_setHalf ..)
  · split
    · exact frameAnswer_countError (by decide) ..
    · exact .accepted ..

theorem frameAnswer_admitHeader (h : HeaderIds) (events : List Event) :
    FrameAnswer b (admitHeader c o F p rssi h events b) := by
  rcases admitHeader_cases c o F p rssi h events b with
    ⟨_, status, _, hstatus, e⟩ | ⟨_, _, _, e⟩ | ⟨_, _, e⟩ <;> rw [e]
  · have hne : status ≠ .ok := by
      rintro rfl
      exact absurd hstatus (by decide)
    exact frameAnswer_countError hne ..
  · exact .accepted ..
  · exact .accepted ..

/-- A forced end before admission delivers nothing. -/
theorem FrameAnswer.of_endedBlock {reason : EndReason} {r : Block × Response}
    (h : FrameAnswer (endedBlock c o reason b) r) : FrameAnswer b r := by
  cases h with
  | rejected events hstatus hsame =>
    exact .rejected events hstatus (hsame.trans (undelivered_endedBlock ..))
  | accepted => exact .accepted ..

theorem frameAnswer_processHeader : FrameAnswer b (processHeader c o F p rssi b) := by
  by_cases hidle : (b.half o).st = .idle
  · rw [processHeader_of_idle hidle]
    exact frameAnswer_admitHeader ..
  · by_cases hown : sameDestination b.ctx (c.hdrOf F)
    · rw [processHeader_of_own hidle hown]
      exact .accepted ..
    · rw [processHeader_of_foreign hidle hown]
      exact (frameAnswer_admitHeader ..).of_endedBlock

/-- Every frame is rejected or accepted. -/
theorem frameAnswer_process (c : Cfg) (o : Origin) (F : Buffer) (rssi : Option (BitVec 16)) (b : Block) :
    FrameAnswer b (process c o F rssi b) := by
  rcases process_cases c o F rssi b with ⟨_, e⟩ | ⟨_, status, _, _, hv, e⟩ |
    ⟨_, _, _, p, _, ⟨_, e⟩ | ⟨_, e⟩ | ⟨_, e⟩⟩ <;> rw [e]
  · exact .rejected _ (by decide) rfl
  · have hne : status ≠ .ok := by rcases validate_drop_status hv with rfl | rfl | rfl | rfl <;> decide
    exact frameAnswer_countError hne ..
  · exact frameAnswer_processPayload
  · exact frameAnswer_processTerminator
  · exact frameAnswer_processHeader

/-! ### Completion (rules R210, R213, R234, R236) -/

/-- A frame to be delivered is the last, whatever else was done to the halves and the context. -/
theorem undelivered_delivered (hq : b'.q = b.q) (hpend : b'.pend = b.pend) (hp : b.pend.valid = false) :
    (delivered c o F b').undelivered = b.undelivered ++ [⟨o, F⟩] := by
  rw [← enqueue_eq_delivered, undelivered_enqueue (by rw [hpend, hp]), undelivered_congr hq hpend]

theorem undelivered_openedBlock (h : HeaderIds) (hp : b.pend.valid = false) :
    (openedBlock c o F p rssi h b).undelivered = b.undelivered ++ [⟨o, F⟩] :=
  undelivered_delivered (by simp) (by simp) hp

theorem st_openedBlock (c : Cfg) (o : Origin) (F : Buffer) (p : Profile) (rssi : Option (BitVec 16))
    (h : HeaderIds) (b : Block) : ((openedBlock c o F p rssi h b).half o).st = .receiving := by
  rw [openedBlock, half_delivered]
  cases o <;> rfl

theorem owner_openedBlock (c : Cfg) (o : Origin) (F : Buffer) (p : Profile) (rssi : Option (BitVec 16))
    (h : HeaderIds) (b : Block) : (openedBlock c o F p rssi h b).ctx.owner = o := by
  rw [openedBlock, delivered_ctx]

/-- What rule R210 says of every answer: no payload, no word, `RESULT` exactly for ACCEPTED, and a frame
that is not accepted is not delivered. -/
theorem FrameAnswer.response {r : Block × Response} (h : FrameAnswer b r) :
    r.2.payload = [] ∧ r.2.res32 = 0 ∧ r.2.result = decide (r.2.status = .ok) ∧
      (r.2.result = false → r.1.undelivered = b.undelivered) := by
  cases h with
  | rejected events hstatus hsame =>
    exact ⟨rfl, rfl, (decide_eq_false hstatus).symm, fun _ => hsame⟩
  | accepted => exact ⟨rfl, rfl, rfl, nofun⟩

/-- Settles O42: `frameAnswer_process` for every frame; a clause about a kind of frame reads the block and
the answer of that kind. -/
theorem frameCommandsComplete : Obligations.FrameCommandsComplete := by
  rintro o rssi F s ⟨hready, hp⟩
  refine ⟨?_, fun c _ => ?_⟩
  · have hanswer := frameAnswer_process cfg o F (sampleOf o rssi) s.blk
    rcases hprocess : process cfg o F (sampleOf o rssi) s.blk with ⟨b', r⟩
    rw [hprocess] at hanswer
    exact ⟨_, r, (runs_offer hready hprocess).2 rfl, rfl, rfl, hanswer.response⟩
  · rcases hprocess : process c o F (sampleOf o rssi) s.blk with ⟨b', r⟩
    refine ⟨_, r, runs_offer hready hprocess, rfl, fun status kind type hv => ?_,
      fun kind type p hv hr hopen => ?_, fun kind type p hv hr hids hopen => ?_,
      fun kind type p hv hr hids hrf hnet hhang => ?_⟩
    · rw [process_drop hp hv] at hprocess
      obtain ⟨rfl, rfl⟩ := Prod.mk.inj hprocess
      exact ⟨rfl, undelivered_setHalf ..⟩
    · rw [process_payload hp hv hr, processPayload_of_open hopen] at hprocess
      obtain ⟨rfl, rfl⟩ := Prod.mk.inj hprocess
      exact ⟨rfl, rfl, rfl, by simp [heldHalf], undelivered_delivered (by simp) (by simp) hp⟩
    · have hown : p.hasIds = true → sameDestination s.blk.ctx (c.hdrOf F) := by simp [hids]
      rw [process_terminator hp hv hr, processTerminator_of_own hopen hown] at hprocess
      obtain ⟨rfl, rfl⟩ := Prod.mk.inj hprocess
      exact ⟨rfl, rfl, by simp [endedHalf],
        (undelivered_endedBlock ..).trans (undelivered_setHalf ..)⟩
    · have hclear : ¬ hangRefuses c o (c.hdrOf F) s.blk.ctx := fun ⟨_, hrun, _⟩ => hhang hrun
      rw [process_header hp hv hr, processHeader_of_clear hrf hnet hids hclear] at hprocess
      obtain ⟨rfl, rfl⟩ := Prod.mk.inj hprocess
      exact ⟨rfl, rfl, rfl, st_openedBlock .., owner_openedBlock .., undelivered_openedBlock _ hp⟩

/-! ### The other half (rules R221, R225, R231) -/

/-- Admission touches the other half only where the favoured origin pre-empts its call. -/
theorem half_other_admitHeader (h : HeaderIds) (events : List Event) :
    (admitHeader c o F p rssi h events b).1.half (other o) = b.half (other o) ∨
      (isFavoured c o ∧ (b.half (other o)).st ≠ .idle ∧
        (admitHeader c o F p rssi h events b).1.half (other o)
          = endedHalf .preempted (b.half (other o))) := by
  rcases admitHeader_cases c o F p rssi h events b with
    ⟨_, _, _, _, e⟩ | ⟨_, hother, hfav, e⟩ | ⟨_, _, e⟩ <;> rw [e]
  · exact .inl (half_countError_other ..)
  · exact .inr ⟨(favoured_iff c o).1 hfav, hother, by simp [openCall, ended_eq_endedHalf]⟩
  · exact .inl (by simp [openCall])

theorem half_other_processHeader :
    (processHeader c o F p rssi b).1.half (other o) = b.half (other o) ∨
      (isFavoured c o ∧ (b.half (other o)).st ≠ .idle ∧
        (processHeader c o F p rssi b).1.half (other o)
          = endedHalf .preempted (b.half (other o))) := by
  by_cases hidle : (b.half o).st = .idle
  · rw [processHeader_of_idle hidle]
    exact half_other_admitHeader ..
  · by_cases hown : sameDestination b.ctx (c.hdrOf F)
    · rw [processHeader_of_own hidle hown]
      rw [half_delivered]
      exact .inl (by cases o <;> rfl)
    · rw [processHeader_of_foreign hidle hown, ← half_endedBlock_other c o .forced b]
      exact half_other_admitHeader ..

theorem half_other_processPayload :
    (processPayload c o F p rssi b).1.half (other o) = b.half (other o) := by
  unfold processPayload
  split
  · exact half_countError_other ..
  · simp

theorem half_other_processTerminator :
    (processTerminator c o F p rssi b).1.half (other o) = b.half (other o) := by
  unfold processTerminator
  split
  · simp
  · split
    · exact half_countError_other ..
    · simp [terminate]

/-- Settles O44: a faulted block examines no frame; of the frames examined, only a header can reach the
other half. -/
theorem framesLeaveOtherHalf : Obligations.FramesLeaveOtherHalf := by
  rintro c o rssi F s t ⟨rfl, -⟩
  rw [State.answer_blk, perform_offer]
  by_cases hfault : s.blk.fault = true
  · rw [gate_faulted hfault]
    exact .inl rfl
  · rw [gate_ready (by simpa using hfault)]
    rcases process_cases c o F (sampleOf o rssi) s.blk with ⟨_, e⟩ | ⟨_, _, _, _, _, e⟩ |
      ⟨_, _, _, p, _, ⟨_, e⟩ | ⟨_, e⟩ | ⟨_, e⟩⟩ <;> rw [e]
    · exact .inl (by simp)
    · exact .inl (half_countError_other ..)
    · exact .inl half_other_processPayload
    · exact .inl half_other_processTerminator
    · exact half_other_processHeader

end Sys2Proof.Machine
end

section
/-! PROOFS. The commands without a frame (`44_control.md` rules R236, R246, R247, R252): an empty pull, the
events of a `CLOCK`, the busy test, and the link-control cache. -/

namespace Sys2Proof.Machine

open Sys2Proof.Spec

variable {c : Cfg} {b : Block} {ms : Word32}

/-! ### Reading (rules R236, R247, R252) -/

/-- Settles O43: PROCNET without a frame never reaches `process`. -/
theorem emptyNetworkPullChangesNothing : Obligations.EmptyNetworkPullChangesNothing := fun _ hready =>
  exec_of_perform_same (gate_ready hready _)

/-- Settles O53: behind the gate the command reads the two call states. -/
theorem isbusyReportsOpenCall : Obligations.IsbusyReportsOpenCall := fun _ hready =>
  exec_of_perform_same (gate_ready hready _)

/-- Settles O55: behind the gate the command reads the cache of the half it selects. -/
theorem rdlcReturnsCache : Obligations.RdlcReturnsCache := fun _ _ hready =>
  exec_of_perform_same (gate_ready hready _)

/-! ### `CLOCK` (rule R246) -/

/-- The end of a call is reported alone, or with the RSSI record of its own origin. -/
theorem endEvents_shape (o : Origin) (reason : EndReason) (b : Block) :
    (∃ e, endEvents o reason b = [e] ∧ e.code = .callEnd) ∨
    ∃ e f, endEvents o reason b = [e, f] ∧ e.code = .callEnd ∧ f.code = .rssiReport ∧
      e.origin = f.origin := by
  unfold endEvents
  split
  · exact .inl ⟨_, rfl, rfl⟩
  · exact .inr ⟨_, _, rfl, rfl, rfl, rfl⟩

theorem advanceTimers_of_not_running (hrf : b.rf.tmo.ts ≠ .running) (hnet : b.net.tmo.ts ≠ .running)
    (hhang : b.ctx.hang.ts ≠ .running) : advanceTimers ms b = b := by
  rw [advanceTimers, Timer.advance_of_not_running ms hrf, Timer.advance_of_not_running ms hnet,
    Timer.advance_of_not_running ms hhang]

theorem retryPending_of_none (c : Cfg) (h : b.pend.valid = false) : retryPending c b = b := by
  simp [retryPending, h]

/-- With no timer running and no frame pending a good block has nothing for time to do. -/
theorem Block.Invariant.tick_quiet (hi : b.Invariant c) (hrf : b.rf.tmo.ts ≠ .running)
    (hnet : b.net.tmo.ts ≠ .running) (hhang : b.ctx.hang.ts ≠ .running)
    (hpend : b.pend.valid = false) : tick c ms b = (b, []) := by
  have hlasts : ∀ {t : Timer}, t.ts ≠ .running → t.ts ≠ .expired → outlasts ms t := fun hrun hexp =>
    (outlasts_or_expiresWithin ms hexp).resolve_right fun h => hrun h.1
  rw [tick_of_outlasts c (hlasts hrf (hi.timer_not_expired .rf))
    (hlasts hnet (hi.timer_not_expired .net)) (hlasts hhang hi.hang_not_expired),
    retryPending_of_none c hpend, advanceTimers_of_not_running hrf hnet hhang]

/-- Settles O52: a clock ends one call, or none, or clears the context. -/
theorem clockEmitsAtMostTwoEvents : Obligations.ClockEmitsAtMostTwoEvents := by
  intro ms s hi hready
  refine ⟨_, _, exec_clock hready, rfl, ?_, fun hrf hnet hhang hpend => ?_⟩
  · dsimp only
    rcases Block.Invariant.tick_cases hi ms with ⟨o, e⟩ | e | e <;> rw [e]
    · rcases endEvents_shape o .timeout s.blk with ⟨e, hone, hcode⟩ | htwo
      · exact .inr (.inl ⟨e, hone, by simp [hcode]⟩)
      · exact .inr (.inr htwo)
    · exact .inl rfl
    · exact .inr (.inl ⟨_, rfl, by simp [contextEvent]⟩)
  · rw [State.answer_blk, Block.Invariant.tick_quiet hi hrf hnet hhang hpend]

end Sys2Proof.Machine
end

section
/-! PROOFS. The fatal fault (`60_exceptions.md` rules R262, R263, R270): what raises it, what a faulted
block answers, and the one way out of it. -/

namespace Sys2Proof.Machine

open Sys2Proof.Spec

/-- Everything a step of a faulted block can have done: it waits, resets, or answers a packet FAULTED,
whatever the packet decodes to. -/
theorem step_cases_of_faulted {s t : State} (hfault : s.blk.fault = true) (h : step s = .next t) :
    (s.inputs = [] ∧ t = s) ∨
    (∃ rest, s.inputs = .hardwareReset :: rest ∧
      t = { blk := Block.reset cfg, inputs := rest, resp := none }) ∨
    (∃ packet rest, s.inputs = .command packet :: rest ∧
      t = { s with inputs := rest, resp := some (Response.faulted s.blk.faultCause) }) := by
  rcases step_cases h with hwait | hreset | ⟨packet, rest, i, hinputs, _, rfl⟩ |
    ⟨packet, rest, _, hinputs, _, _, rfl⟩
  · exact .inl hwait
  · exact .inr (.inl hreset)
  · exact .inr (.inr ⟨packet, rest, hinputs, by rw [perform_faulted cfg i hfault]; rfl⟩)
  · exact .inr (.inr ⟨packet, rest, hinputs, by rw [refuseCommand_faulted hfault]; rfl⟩)

/-- Settles O18: of the three things a faulted block's step can do, only the reset touches the block. -/
theorem latchClearedOnlyByHardwareReset : Obligations.LatchClearedOnlyByHardwareReset := by
  intro s t hfault hstep
  rcases step_cases_of_faulted hfault hstep with ⟨hinputs, rfl⟩ | ⟨rest, hinputs, rfl⟩ |
    ⟨packet, rest, hinputs, rfl⟩
  · exact ⟨by simp [hinputs], fun _ => rfl⟩
  · exact ⟨fun _ _ => rfl, fun hnone => absurd hinputs (hnone rest)⟩
  · exact ⟨by simp [hinputs], fun _ => rfl⟩

/-- Settles O15: commands stop at the gate; a packet's step goes on, and what it can have done leaves
only FAULTED; a step on anything but hardware reset keeps the block, so it keeps the latch. -/
theorem faultedBlockAnswersFaulted : Obligations.FaultedBlockAnswersFaulted := by
  intro s hfault
  refine ⟨fun i => exec_of_perform_same (perform_faulted cfg i hfault), ?packet, ?cleared⟩
  case packet =>
    intro op arg8 arg32 payload rest hlen hinputs
    obtain ⟨t, hstep, hrest⟩ := step_packetOf hlen hinputs
    rw [hstep]
    rcases step_cases_of_faulted hfault hstep with ⟨hnil, _⟩ | ⟨_, hreset, _⟩ | ⟨_, _, _, rfl⟩
    · simp [hinputs] at hnil
    · simp [hinputs] at hreset
    · rw [← hrest]
      rfl
  case cleared =>
    intro t hstep hclear
    by_contra hnone
    have hkept : t.blk = s.blk :=
      (latchClearedOnlyByHardwareReset s t hfault hstep).2 fun rest e => hnone ⟨rest, e⟩
    simp [hkept, hfault] at hclear

/-- Settles O16: the first half is the short branch of `exec_codec`; for the second, a command that sets
the latch would be a codec command with a short payload. -/
theorem shortCodecPayloadRaisesFatal : Obligations.ShortCodecPayloadRaisesFatal := by
  intro i s hready
  refine ⟨fun m hmin hshort => ?short, fun hmeets t hexec => ?clear⟩
  case short =>
    obtain ⟨r, hcodec⟩ := exec_codec hmin
    rw [hcodec s hready, if_pos hshort]
    rfl
  case clear =>
    rw [exec_next] at hexec
    cases hexec
    rcases (perform_effect cfg i s.blk).latch with ⟨hsame, _⟩ | ⟨m, hmin, hshort, _⟩
    · rw [State.answer_blk, hsame, hready]
    · exact absurd hshort (not_lt.2 (hmeets m hmin))

end Sys2Proof.Machine
end
